-- ==== Sys2Proof/Word.lean ====
section
/-! DEFINITION. The word types of the voice: command words, sink bytes and sink addresses.
Bits are numbered from 0 at the least significant end and every value is unsigned (00_scope.md R7). -/

namespace Sys2Proof

/-- One word of the command port (30_encoding.md R60). -/
abbrev Word := BitVec 32

/-- One byte: a sink byte, an effect selector or parameter, a duty value (20_memory.md R42, 30_encoding.md R61). -/
abbrev Byte := BitVec 8

/-- An address of the register sink (20_memory.md R40). -/
abbrev Addr := BitVec 16

/-- One `RegWrite`: the address and the byte (20_memory.md R42). -/
abbrev SinkWrite := Addr × Byte

end Sys2Proof
end

