-- ==== Sys2Proof/Config.lean ====
section
/-! DEFINITION. What is fixed for a voice and what the spec leaves open (00_scope.md R6): the parameters of a voice,
and the three OPEN parameters as constants without a body. -/

namespace Sys2Proof

/-- `CH`, the index of a voice of the pair (00_scope.md R6, 20_memory.md R44). -/
abbrev Channel := Fin 2

/-- `PERIOD_SPLIT`: which byte of the period goes to which register (20_memory.md R46, 90_conflicts.md C1). -/
inductive PeriodSplit where
  | asWritten
  | swapped
  deriving DecidableEq, Repr

/-- The address block of one voice: the values `ADDR_CTRL`, `ADDR_PERHI` and `ADDR_PERLO` take at its index
(20_memory.md R44). -/
structure AddressBlock where
  ctrl : Addr
  perhi : Addr
  perlo : Addr
  deriving DecidableEq, Repr

/-- `ADDR_CTRL(CH)`, `ADDR_PERHI(CH)` and `ADDR_PERLO(CH)` as functions of `CH`, which a model may override
(20_memory.md R44; D11, 93_implementation_defined.md U7, log 9). -/
structure AddressMap where
  voice0 : AddressBlock
  voice1 : AddressBlock
  deriving DecidableEq, Repr

/-- `EF_VOLUME` and `EF_DUTY`, the selectors of the two effects of the voice (00_scope.md R6; 93_implementation_defined.md
U10, log 29). -/
structure Selectors where
  efVolume : Byte
  efDuty : Byte
  deriving DecidableEq, Repr

/-- The numbers of the instrument type tags (10_state.md R18, 42_instrument_and_duty.md R125; 93_implementation_defined.md
U10, log 29). -/
structure TypeTags where
  none : BitVec 3
  t2A03 : BitVec 3
  vrc6 : BitVec 3
  n163 : BitVec 3
  s5b : BitVec 3
  deriving DecidableEq, Repr

/-- The parameters fixed when a voice is instantiated, which no command writes (10_state.md R26; log 5). -/
structure Params where
  ch : Channel
  periodSplit : PeriodSplit
  addrs : AddressMap
  selectors : Selectors
  tags : TypeTags
  deriving DecidableEq, Repr

/-- `NOTE_TABLE(octave, note)`, OPEN: a total function of which nothing else is assumed (20_memory.md R55; free, log 6). -/
opaque Config.noteTable : BitVec 3 → BitVec 4 → BitVec 11

/-- `VRC6_DUTY_TABLE(i)`, OPEN: a total function from three bits to a byte (20_memory.md R56; free, log 7). -/
opaque Config.vrc6DutyTable : BitVec 3 → Byte

/-- `TICK_RATE`, OPEN and read by no rule (70_reset_and_hazards.md R235; free, log 8). -/
opaque Config.tickRate : Nat

end Sys2Proof
end

