-- ==== Sys2Proof/Syntax.lean ====
section
/-! DEFINITION. The commands, one constructor per row of spec/opcode_table.json (30_encoding.md R70).
Operands are unsigned fields taken as they stand, each of the width its row gives it (30_encoding.md R71). -/

namespace Sys2Proof

/-- The `kind` field of `ROW` (30_encoding.md R61): 0 empty, 1 pitched note, 2 note-off, 3 release. -/
inductive RowKind where
  | empty
  | pitched
  | noteOff
  | release
  deriving DecidableEq, Repr

/-- One effect column of a `ROW`, or the operands of an `FX`: selector `e` and parameter `p` (40_note_commands.md R90). -/
structure Fx where
  e : Byte
  p : Byte
  deriving DecidableEq, Repr

/-- The commands of the voice, in the order of the opcode table. -/
inductive Instr where
  | rst
  | row (kind : RowKind) (note : BitVec 4) (octave : BitVec 3) (fx : List Fx)
  | empty
  | cut
  | rel
  | note (note : BitVec 4) (octave : BitVec 3)
  | volfxLen (p : BitVec 5)
  | volfxMode (p : BitVec 2)
  | volfxIgn (p : Byte)
  | dutyfx (p : Byte)
  | fxother (e : Byte) (p : Byte)
  | inst (t : BitVec 3)
  | seqduty (d : Byte)
  | tick (P : BitVec 11) (V : BitVec 4)
  | clr
  | effstr
  | cvd (d : Byte)
  deriving DecidableEq, Repr

end Sys2Proof
end

