-- ==== Sys2Proof/WellFormed.lean ====
section
/-! DEFINITION. Which commands have an encoding: the checks that the operand widths alone do not make
(30_encoding.md R70, R73; 41_effect_commands.md R113, R115). -/

namespace Sys2Proof

/-- The volume effect's parameter lies in neither of the two documented ranges (41_effect_commands.md R113). -/
def ignoredVolumeParam (p : Byte) : Bool :=
  !(p < 0x20#8) && !(0xE0#8 ≤ p && p < 0xE4#8)

/-- The selector is neither `EF_VOLUME` nor `EF_DUTY` (41_effect_commands.md R115). -/
def otherSelector (sel : Selectors) (e : Byte) : Bool :=
  e != sel.efVolume && e != sel.efDuty

/-- A command that some words spell: a `ROW` has at most 7 columns (30_encoding.md R73), `VOLFX.IGN` only the ignored
parameters (41_effect_commands.md R113), `FXOTHER` only the other selectors (41_effect_commands.md R115), and `DUTYFX` any, as
long as its selector is not the volume effect's, which the dispatch asks for first (41_effect_commands.md R110). -/
def Instr.wellFormed (sel : Selectors) : Instr → Bool
  | .row _ _ _ fx => fx.length ≤ 7
  | .volfxIgn p => ignoredVolumeParam p
  | .fxother e _ => otherSelector sel e
  | .dutyfx _ => sel.efDuty != sel.efVolume
  | .rst | .empty | .cut | .rel | .note _ _ | .volfxLen _ | .volfxMode _
  | .inst _ | .seqduty _ | .tick _ _ | .clr | .effstr | .cvd _ => true

end Sys2Proof
end

