-- ==== Sys2Proof/Decode.lean ====
section
/-! DEFINITION. The command port's words: the decoder (total, refusing by name), the encoder, the opcode table as
mask and match rows, and the pseudo-commands (30_encoding.md R60 to R75, R81, R82). -/

namespace Sys2Proof

/-- The selectors of the opcode table: 0x45 and 0x56 (30_encoding.md R70; D12). -/
def defaultSelectors : Selectors := ⟨0x45#8, 0x56#8⟩

/-- Why a stream of words spells no command (30_encoding.md R72, R73; 60_exceptions.md R194). -/
inductive DecodeError where
  /-- There is no word to decode. The machine never meets it: with an empty port it idles (70_reset_and_hazards.md R217). -/
  | noWord
  /-- The opcode is 0x0D to 0xFF (R72). -/
  | unassignedOpcode
  /-- A must-be-zero bit of the first word is not zero (R72). -/
  | nonZeroMustBeZero
  /-- The stream ends before the last extension word of a `ROW` (R73; 95_test_vectors.md X9). -/
  | missingExtension
  /-- An extension word of a `ROW` is no well-formed format-F word with `op` = 0x06 (R73). -/
  | badExtension
  deriving DecidableEq, Repr

/-- The thirteen assigned opcodes (30_encoding.md R70). -/
inductive Op where
  | rst | row | empty | cut | rel | note | fx | inst | seqduty | tick | clr | effstr | cvd
  deriving DecidableEq, Repr

/-- The opcode map of 30_encoding.md R70. -/
def Op.byte : Op → Byte
  | .rst => 0x00
  | .row => 0x01
  | .empty => 0x02
  | .cut => 0x03
  | .rel => 0x04
  | .note => 0x05
  | .fx => 0x06
  | .inst => 0x07
  | .seqduty => 0x08
  | .tick => 0x09
  | .clr => 0x0A
  | .effstr => 0x0B
  | .cvd => 0x0C

/-- The opcode a byte stands for; 0x0D to 0xFF stand for none (30_encoding.md R70, R72). -/
def Op.ofByte (b : Byte) : Option Op :=
  match b.toNat with
  | 0x00 => some .rst
  | 0x01 => some .row
  | 0x02 => some .empty
  | 0x03 => some .cut
  | 0x04 => some .rel
  | 0x05 => some .note
  | 0x06 => some .fx
  | 0x07 => some .inst
  | 0x08 => some .seqduty
  | 0x09 => some .tick
  | 0x0A => some .clr
  | 0x0B => some .effstr
  | 0x0C => some .cvd
  | _ => none

/-- `W[31:24]` (30_encoding.md R60). -/
def opcodeOf (w : Word) : Byte := w.extractLsb' 24 8

/-- The field of `n` bits from bit `lo` up is zero. -/
def zeroField (w : Word) (lo n : Nat) : Bool := w.extractLsb' lo n == 0

/-- The values of the `kind` field (30_encoding.md R61). -/
def RowKind.bits : RowKind → BitVec 2
  | .empty => 0
  | .pitched => 1
  | .noteOff => 2
  | .release => 3

/-- The kind a value of the field stands for; every value stands for one (30_encoding.md R61). -/
def RowKind.ofBits (k : BitVec 2) : RowKind :=
  match k.toNat with
  | 0 => .empty
  | 1 => .pitched
  | 2 => .noteOff
  | _ => .release

/-- The five sub-forms of `FX`, disjoint and covering every (`e`, `p`), most specific first
(41_effect_commands.md R110, 30_encoding.md R70). -/
def decodeFx (sel : Selectors) (e p : Byte) : Instr :=
  if e = sel.efVolume then
    if p < 0x20#8 then .volfxLen (p.extractLsb' 0 5)
    else if 0xE0#8 ≤ p ∧ p < 0xE4#8 then .volfxMode (p.extractLsb' 0 2)
    else .volfxIgn p
  else if e = sel.efDuty then .dutyfx p
  else .fxother e p

/-- One extension word of a `ROW`: format F with `op` = 0x06 (30_encoding.md R61, R73). -/
def decodeExt (w : Word) : Option Fx :=
  if opcodeOf w = Op.byte .fx ∧ zeroField w 16 8 then some ⟨w.extractLsb' 8 8, w.extractLsb' 0 8⟩ else none

/-- Exactly `n` extension words, and what follows them (30_encoding.md R73). -/
def decodeExts : Nat → List Word → Except DecodeError (List Fx × List Word)
  | 0, ws => .ok ([], ws)
  | _ + 1, [] => .error .missingExtension
  | n + 1, w :: ws =>
    match decodeExt w with
    | none => .error .badExtension
    | some c =>
      match decodeExts n ws with
      | .error r => .error r
      | .ok (cs, rest) => .ok (c :: cs, rest)

/-- `nfx`, the number of extension words that follow a `ROW` header (30_encoding.md R61). -/
def nfxOf (w : Word) : Nat := (w.extractLsb' 12 3).toNat

/-- A one-word command, if its must-be-zero bits are zero (30_encoding.md R72). -/
def oneWord (mustBeZero : Bool) (i : Instr) (ws : List Word) : Except DecodeError (Instr × List Word) :=
  if mustBeZero then .ok (i, ws) else .error .nonZeroMustBeZero

/-- `ROW`: format R and its extension words (30_encoding.md R61, R73). -/
def decodeRow (w : Word) (ws : List Word) : Except DecodeError (Instr × List Word) :=
  if zeroField w 0 12 then
    match decodeExts (nfxOf w) ws with
    | .error r => .error r
    | .ok (fx, rest) => .ok (.row (RowKind.ofBits (w.extractLsb' 22 2)) (w.extractLsb' 18 4) (w.extractLsb' 15 3) fx, rest)
  else .error .nonZeroMustBeZero

/-- THE DECODER, under the selectors of the voice: the command at the head of a stream of words and the words after it, or
why the stream spells no command. Total (30_encoding.md R60, R61, R70, R72, R73). -/
def decode (sel : Selectors) : List Word → Except DecodeError (Instr × List Word)
  | [] => .error .noWord
  | w :: ws =>
    match Op.ofByte (opcodeOf w) with
    | none => .error .unassignedOpcode
    | some .rst => oneWord (zeroField w 0 24) .rst ws
    | some .row => decodeRow w ws
    | some .empty => oneWord (zeroField w 0 24) .empty ws
    | some .cut => oneWord (zeroField w 0 24) .cut ws
    | some .rel => oneWord (zeroField w 0 24) .rel ws
    | some .note => oneWord (zeroField w 22 2 && zeroField w 0 15) (.note (w.extractLsb' 18 4) (w.extractLsb' 15 3)) ws
    | some .fx => oneWord (zeroField w 16 8) (decodeFx sel (w.extractLsb' 8 8) (w.extractLsb' 0 8)) ws
    | some .inst => oneWord (zeroField w 3 21) (.inst (w.extractLsb' 0 3)) ws
    | some .seqduty => oneWord (zeroField w 8 16) (.seqduty (w.extractLsb' 0 8)) ws
    | some .tick => oneWord (zeroField w 15 9) (.tick (w.extractLsb' 4 11) (w.extractLsb' 0 4)) ws
    | some .clr => oneWord (zeroField w 0 24) .clr ws
    | some .effstr => oneWord (zeroField w 0 24) .effstr ws
    | some .cvd => oneWord (zeroField w 8 16) (.cvd (w.extractLsb' 0 8)) ws

/-! ## The encoder (30_encoding.md R61, R81: each field shifted to its place and ORed) -/

/-- The opcode in bits 31:24 (30_encoding.md R60). -/
def opWord (op : Op) : Word := op.byte.setWidth 32 <<< 24

/-- Format Z. -/
def wordZ (op : Op) : Word := opWord op

/-- Format R, the header word of a `ROW`. -/
def wordR (kind : RowKind) (note : BitVec 4) (octave nfx : BitVec 3) : Word :=
  opWord .row ||| (kind.bits.setWidth 32 <<< 22) ||| (note.setWidth 32 <<< 18) ||| (octave.setWidth 32 <<< 15)
    ||| (nfx.setWidth 32 <<< 12)

/-- Format N. -/
def wordN (note : BitVec 4) (octave : BitVec 3) : Word :=
  opWord .note ||| (note.setWidth 32 <<< 18) ||| (octave.setWidth 32 <<< 15)

/-- Format F. -/
def wordF (e p : Byte) : Word := opWord .fx ||| (e.setWidth 32 <<< 8) ||| p.setWidth 32

/-- Format B. -/
def wordB (op : Op) (d : Byte) : Word := opWord op ||| d.setWidth 32

/-- Format T. -/
def wordT (P : BitVec 11) (V : BitVec 4) : Word := opWord .tick ||| (P.setWidth 32 <<< 4) ||| V.setWidth 32

/-- Format I. -/
def wordI (t : BitVec 3) : Word := opWord .inst ||| t.setWidth 32

/-- The parameter byte of a length load: `p < 0x20` (41_effect_commands.md R111). -/
def lenParam (p : BitVec 5) : Byte := p.setWidth 8

/-- The parameter byte of a mode switch: 0xE0 to 0xE3 (41_effect_commands.md R112). -/
def modeParam (p : BitVec 2) : Byte := 0xE0#8 ||| p.setWidth 8

/-- THE ENCODER: the words of a command (30_encoding.md R60, R61, R70, R73). -/
def encode (sel : Selectors) : Instr → List Word
  | .rst => [wordZ .rst]
  | .row kind note octave fx => wordR kind note octave (BitVec.ofNat 3 fx.length) :: fx.map (fun c => wordF c.e c.p)
  | .empty => [wordZ .empty]
  | .cut => [wordZ .cut]
  | .rel => [wordZ .rel]
  | .note note octave => [wordN note octave]
  | .volfxLen p => [wordF sel.efVolume (lenParam p)]
  | .volfxMode p => [wordF sel.efVolume (modeParam p)]
  | .volfxIgn p => [wordF sel.efVolume p]
  | .dutyfx p => [wordF sel.efDuty p]
  | .fxother e p => [wordF e p]
  | .inst t => [wordI t]
  | .seqduty d => [wordB .seqduty d]
  | .tick P V => [wordT P V]
  | .clr => [wordZ .clr]
  | .effstr => [wordZ .effstr]
  | .cvd d => [wordB .cvd d]

/-! ## The opcode table as masks and matches, and the pseudo-commands -/

/-- One row of spec/opcode_table.json: a word is of the row when `W & mask` = `pat` (30_encoding.md R70). -/
structure TableRow where
  mnemonic : String
  pat : Word
  mask : Word
  deriving DecidableEq, Repr

/-- The match of the rows of one selector: format F with that selector and parameter 0 (30_encoding.md R61). -/
def selectorPat (e : Byte) : Word := 0x06000000#32 ||| (e.setWidth 32 <<< 8)

/-- The opcode table, in its priority order; with the default selectors the rows of spec/opcode_table.json (30_encoding.md
R70). -/
def opcodeTable (sel : Selectors) : List TableRow :=
  [ ⟨"RST", 0x00000000, 0xFFFFFFFF⟩,
    ⟨"ROW", 0x01000000, 0xFF000FFF⟩,
    ⟨"EMPTY", 0x02000000, 0xFFFFFFFF⟩,
    ⟨"CUT", 0x03000000, 0xFFFFFFFF⟩,
    ⟨"REL", 0x04000000, 0xFFFFFFFF⟩,
    ⟨"NOTE", 0x05000000, 0xFFC07FFF⟩,
    ⟨"VOLFX.LEN", selectorPat sel.efVolume, 0xFFFFFFE0⟩,
    ⟨"VOLFX.MODE", selectorPat sel.efVolume ||| 0xE0#32, 0xFFFFFFFC⟩,
    ⟨"VOLFX.IGN", selectorPat sel.efVolume, 0xFFFFFF00⟩ ] ++
  [ ⟨"DUTYFX", selectorPat sel.efDuty, 0xFFFFFF00⟩,
    ⟨"FXOTHER", 0x06000000, 0xFFFF0000⟩,
    ⟨"INST", 0x07000000, 0xFFFFFFF8⟩,
    ⟨"SEQDUTY", 0x08000000, 0xFFFFFF00⟩,
    ⟨"TICK", 0x09000000, 0xFFFF8000⟩,
    ⟨"CLR", 0x0A000000, 0xFFFFFFFF⟩,
    ⟨"EFFSTR", 0x0B000000, 0xFFFFFFFF⟩,
    ⟨"CVD", 0x0C000000, 0xFFFFFF00⟩ ]

/-- The word belongs to the row. -/
def TableRow.covers (r : TableRow) (w : Word) : Bool := w &&& r.mask == r.pat

/-- The first row of the table that covers a word (30_encoding.md R70). -/
def firstRow (sel : Selectors) (w : Word) : Option TableRow := (opcodeTable sel).find? (fun r => r.covers w)

/-- The mnemonic of a command's row. -/
def Instr.mnemonic : Instr → String
  | .rst => "RST"
  | .row _ _ _ _ => "ROW"
  | .empty => "EMPTY"
  | .cut => "CUT"
  | .rel => "REL"
  | .note _ _ => "NOTE"
  | .volfxLen _ => "VOLFX.LEN"
  | .volfxMode _ => "VOLFX.MODE"
  | .volfxIgn _ => "VOLFX.IGN"
  | .dutyfx _ => "DUTYFX"
  | .fxother _ _ => "FXOTHER"
  | .inst _ => "INST"
  | .seqduty _ => "SEQDUTY"
  | .tick _ _ => "TICK"
  | .clr => "CLR"
  | .effstr => "EFFSTR"
  | .cvd _ => "CVD"

/-- The assembler's pseudo-commands (30_encoding.md R82). -/
inductive Pseudo where
  | vol (p : Byte)
  | duty (p : Byte)
  | len (n : BitVec 5)
  | envmode (m : BitVec 2)
  deriving DecidableEq, Repr

/-- The selector and parameter of the `FX` a pseudo-command expands to (30_encoding.md R82). -/
def Pseudo.fx (sel : Selectors) : Pseudo → Fx
  | .vol p => ⟨sel.efVolume, p⟩
  | .duty p => ⟨sel.efDuty, p⟩
  | .len n => ⟨sel.efVolume, n.setWidth 8⟩
  | .envmode m => ⟨sel.efVolume, 0xE0 + m.setWidth 8⟩

/-- The one real command a pseudo-command expands to (30_encoding.md R82). -/
def Pseudo.expand (sel : Selectors) (q : Pseudo) : Instr := decodeFx sel (q.fx sel).e (q.fx sel).p

/-! ## The host's numbering of an instruction's bits -/

/-- Word `k` of an instruction whose bits, numbered from the first word up, are `w` (its low `nbits`, zero above). -/
def tableWord (nbits w k : Nat) : Word := BitVec.ofNat 32 ((w % 2 ^ nbits) / 2 ^ (32 * k))

/-- The words of that instruction: its length is told from the first word alone (30_encoding.md R73). -/
def tableWords (nbits w : Nat) : List Word :=
  let head := tableWord nbits w 0
  let extra := if opcodeOf head = Op.byte .row then nfxOf head else 0
  head :: (List.range extra).map (fun k => tableWord nbits w (k + 1))

/-- What the decoder reads from an instruction whose bits are `w`, under the selectors of the opcode table. -/
def decodeTableWord (nbits w : Nat) : Option Instr :=
  match decode defaultSelectors (tableWords nbits w) with
  | .ok (i, _) => some i
  | .error _ => none

end Sys2Proof
end

