-- ==== Sys2Proof/Machine/Parameters.lean ====
section
/-! DEFINITION. The parameters of a voice and their defaults: the addresses of the register sink, one of them fixed by the
source, and the numbers of the instrument types (00_scope.md R6; 20_memory.md R44; log 9, 29). -/

namespace Sys2Proof.Machine

/-- `ADDR_ENABLE`, the one address the source gives, shared by both voices. -/
def addrEnable : Addr := 0x5015

/-- The default address block of a voice: 0x5000, 0x5002 and 0x5003, each plus 4*CH (D11, from general knowledge). -/
def defaultBlock (ch : Channel) : AddressBlock where
  ctrl := 0x5000 + 4 * BitVec.ofNat 16 ch.val
  perhi := 0x5002 + 4 * BitVec.ofNat 16 ch.val
  perlo := 0x5003 + 4 * BitVec.ofNat 16 ch.val

/-- The default of the three address functions (D11). -/
def defaultAddrs : AddressMap := ⟨defaultBlock 0, defaultBlock 1⟩

/-- The block the address functions give at an index. -/
def blockAt (addrs : AddressMap) (ch : Channel) : AddressBlock := if ch = 0 then addrs.voice0 else addrs.voice1

/-- `ADDR_CTRL(CH)`. -/
def addrCtrl (params : Params) : Addr := (blockAt params.addrs params.ch).ctrl

/-- `ADDR_PERHI(CH)`. -/
def addrPerhi (params : Params) : Addr := (blockAt params.addrs params.ch).perhi

/-- `ADDR_PERLO(CH)`. -/
def addrPerlo (params : Params) : Addr := (blockAt params.addrs params.ch).perlo

/-- The default numbers of the type tags (42_instrument_and_duty.md R125; D13). -/
def defaultTags : TypeTags where
  none := 0
  t2A03 := 1
  vrc6 := 2
  n163 := 5
  s5b := 6

/-- A voice's parameters at their defaults, but for its index and split (00_scope.md R6). -/
def defaultParams (ch : Channel) (split : PeriodSplit) : Params := ⟨ch, split, defaultAddrs, defaultSelectors, defaultTags⟩

end Sys2Proof.Machine
end

