-- ==== Sys2Proof/Machine/State.lean ====
section
/-! DEFINITION. The state of the machine as plain data, its reset value, and the reasons a step can stop
(10_state.md R10 to R35). -/

namespace Sys2Proof.Machine

/-- The instrument type tags a voice can hold (10_state.md R18, 42_instrument_and_duty.md R125): the tags 3, 4 and 7 can
never be stored, so they have no constructor (log 19). -/
inductive InstType where
  | none
  | t2A03
  | vrc6
  | n163
  | s5b
  deriving DecidableEq, Repr

/-- The instrument handler a successful `INST` makes (10_state.md R19). -/
structure Handler where
  maxVolume : BitVec 4
  dutyOffset : Byte
  deriving DecidableEq, Repr

/-- The state of one voice: exactly nine data registers and five flags (10_state.md R10). -/
structure Voice where
  /-- R11. -/
  period : BitVec 11
  /-- R12. -/
  volume : BitVec 4
  /-- R13. -/
  dutyPeriod : Byte
  /-- R14. -/
  dutyDefault : Byte
  /-- R15. -/
  lastPeriod : BitVec 16
  /-- R16: a load value, not a running counter. -/
  lengthCounter : BitVec 5
  /-- R17. -/
  volCeil : BitVec 4
  /-- R18. -/
  instType : InstType
  /-- R19: absent, or the one handler. -/
  ih : Option Handler
  /-- R20. -/
  gate : Bool
  /-- R21. -/
  hardwareEnvelope : Bool
  /-- R22. -/
  envelopeLoop : Bool
  /-- R23: the pending reset. -/
  resetEnvelope : Bool
  /-- R24. -/
  releasing : Bool
  deriving DecidableEq, Repr

/-- What a command returns on the status port (30_encoding.md R62). -/
inductive Result where
  /-- `INST`: success or failure. -/
  | ok (b : Bool)
  /-- `CVD`: the converted duty. -/
  | duty (d : Byte)
  /-- `EFFSTR`: ASCII text. -/
  | text (s : List Byte)
  deriving DecidableEq, Repr

/-- The machine: one voice, the parameters it was instantiated with, the command words it has not consumed, and its two
output streams (60_exceptions.md R206). Only `voice` is state of the voice by 10_state.md R10; the other fields are
inputs and outputs of its steps (log 1, 3, 4, 5). -/
structure State where
  /-- `CH`, `PERIOD_SPLIT`, the addresses and the numbers of selectors and tags; no command writes them (10_state.md R26). -/
  params : Params
  /-- The state of the voice. -/
  voice : Voice
  /-- The command port: the words issued and not yet consumed, next first (20_memory.md R40). -/
  port : List Word
  /-- The sink's write trace, oldest first (20_memory.md R42, R48). -/
  trace : List SinkWrite
  /-- The results delivered on the status port, oldest first (30_encoding.md R62). -/
  results : List Result
  deriving DecidableEq, Repr

/-- The reasons a step faults: NONE. The block raises no exception and no command can trap (60_exceptions.md R190, R197),
so this type has no constructor: nobody raises a fault (safe, log 28). -/
inductive Fault : Type where
  deriving DecidableEq, Repr

/-- The reasons a step is refused. -/
inductive Refusal where
  /-- Raised by an arm of `exec` whose instruction has no meaning yet; there is no such arm left. Safe. -/
  | notModelled (mnemonic : String)
  /-- Raised by `step` when the words on the port spell no command, with the decoder's reason (30_encoding.md R72, R73;
  60_exceptions.md R194). Safe: the run ends where the spec gives the stream no meaning (log 18). -/
  | spellsNoCommand (reason : DecodeError)
  deriving DecidableEq, Repr

/-- The voice after power-on (10_state.md R34, column "after power-on"; 70_reset_and_hazards.md R215; log 11). -/
def Voice.reset : Voice where
  period := 0
  volume := 0
  dutyPeriod := 0
  dutyDefault := 0
  lastPeriod := 0xFFFF
  lengthCounter := 1
  volCeil := 0x0F
  instType := .none
  ih := none
  gate := false
  hardwareEnvelope := false
  envelopeLoop := true
  resetEnvelope := false
  releasing := false

/-- The machine right after power-on: voice 0 with the spec's defaults of the other parameters (log 5, 9, 29), nothing issued, nothing
sent, nothing returned. Power-on emits no `RegWrite` (70_reset_and_hazards.md R215). -/
def State.reset : State where
  params := defaultParams 0 .asWritten
  voice := Voice.reset
  port := []
  trace := []
  results := []

end Sys2Proof.Machine
end

