-- ==== Sys2Proof/Machine/Ops.lean ====
section
/-! DEFINITION. The named operations: the one store `RegWrite`, the status port, the command port, and the sink image
computed from the write trace (20_memory.md R40 to R48, 30_encoding.md R62). The block has no load, no trap entry and no
trap return (20_memory.md R41; 60_exceptions.md R197, R198), so no such operation stands here. -/

namespace Sys2Proof.Machine

/-- A machine with another voice state. -/
def State.setVoice (s : State) (v : Voice) : State := { s with voice := v }

/-- `RegWrite(a, v)`: append the pair to the sink's write trace; it returns nothing, cannot fail, and changes no state of
the voice (20_memory.md R42). -/
def State.regWrite (s : State) (a : Addr) (v : Byte) : State := { s with trace := s.trace ++ [(a, v)] }

/-- A burst: its `RegWrite`s one after another, in order (20_memory.md R48). -/
def State.emit (s : State) (burst : List SinkWrite) : State := burst.foldl (fun s w => s.regWrite w.1 w.2) s

/-- Deliver a result on the status port; no command reads it back (30_encoding.md R62). -/
def State.deliver (s : State) (r : Result) : State := { s with results := s.results ++ [r] }

/-- The machine once the words before `rest` are consumed from the command port. -/
def State.setPort (s : State) (rest : List Word) : State := { s with port := rest }

/-- The owner issues command words: they stand behind the words already issued (60_exceptions.md R196, R207). -/
def State.issue (s : State) (ws : List Word) : State := { s with port := s.port ++ ws }

/-! ## The sink image (20_memory.md R43) -/

/-- The written addresses of the sink and the last byte written to each: addresses strictly rising, none twice. An
address that is not listed was never written, and there the image is undefined (20_memory.md R43, log 3). -/
abbrev Memory := List Host.Cell

/-- The canonical form: addresses strictly rising, all of them 16-bit (20_memory.md R40). -/
def Memory.wf : Memory → Bool
  | [] => true
  | [(a, _)] => a < 65536
  | (a, _) :: (b, v) :: m => a < b && Memory.wf ((b, v) :: m)

/-- The byte at an address, or none where nothing was written. -/
def Memory.read (m : Memory) (a : Nat) : Option Byte :=
  match m with
  | [] => none
  | (b, v) :: m => if a = b then some v else Memory.read m a

/-- Write one byte, keeping the addresses strictly rising. -/
def Memory.write (m : Memory) (a : Nat) (v : Byte) : Memory :=
  match m with
  | [] => [(a, v)]
  | (b, u) :: m => if a < b then (a, v) :: (b, u) :: m else if a = b then (a, v) :: m else (b, u) :: Memory.write m a v

/-- The image of a write trace: the last byte written to each address (20_memory.md R43). -/
def imageOf (trace : List SinkWrite) : Memory := trace.foldl (fun m w => Memory.write m w.1.toNat w.2) []

/-- The sink image of a machine: an observation, which the voice never reads (20_memory.md R41, R43). -/
def State.image (s : State) : Memory := imageOf s.trace

/-- Reading one byte of the sink image. -/
def State.sinkByte (s : State) (a : Addr) : Option Byte := s.image.read a.toNat

end Sys2Proof.Machine
end

