-- ==== Sys2Proof/Machine/Operands.lean ====
section
/-! DEFINITION. The values commands compute from operands and registers: the sink bytes, duty conversion, the
instrument tags and the text of the diagnostic string (20_memory.md R46; 10_state.md R28 to R31;
42_instrument_and_duty.md R125 to R128; 30_encoding.md R83). -/

namespace Sys2Proof.Machine

/-! ## Sink bytes -/

/-- `ENABLE_MASK` (10_state.md R28). -/
def enableMask : Byte := 0x03

/-- `SILENCE` (10_state.md R29). -/
def silence : Byte := 0x30

/-- `SENTINEL` (10_state.md R15). -/
def sentinel : BitVec 16 := 0xFFFF

/-- `BYTE_A(P)`, the byte always written to `PERHI` (20_memory.md R46). -/
def byteA (split : PeriodSplit) (P : BitVec 11) : Byte :=
  match split with
  | .asWritten => (P.extractLsb' 8 3).setWidth 8
  | .swapped => P.extractLsb' 0 8

/-- `BYTE_B(P)`, the period byte that goes to `PERLO` (20_memory.md R46). -/
def byteB (split : PeriodSplit) (P : BitVec 11) : Byte :=
  match split with
  | .asWritten => P.extractLsb' 0 8
  | .swapped => (P.extractLsb' 8 3).setWidth 8

/-- `CMP(L)`, the byte of `lastPeriod` that `BYTE_B` is compared with (20_memory.md R46). -/
def cmpByte (split : PeriodSplit) (L : BitVec 16) : Byte :=
  match split with
  | .asWritten => L.extractLsb' 0 8
  | .swapped => L.extractLsb' 8 8

/-- Step 2 of `TICK`: the two low bits of the duty-period value (43_tick_sequencer.md R142). -/
def dutyCycle (dutyPeriod : Byte) : BitVec 2 := dutyPeriod.extractLsb' 0 2

/-- A flag as a byte, 0 or 1 (00_scope.md R7). -/
def flagByte (b : Bool) : Byte := (BitVec.ofBool b).setWidth 8

/-- The control byte of a gated-on tick (43_tick_sequencer.md R146, 10_state.md R29), evaluated in 8 bits. -/
def ctrlByte (duty : BitVec 2) (envelopeLoop hardwareEnvelope : Bool) (V : BitVec 4) : Byte :=
  (duty.setWidth 8 <<< 6) ||| (flagByte envelopeLoop <<< 5) ||| (flagByte (!hardwareEnvelope) <<< 4) ||| V.setWidth 8

/-- The period-low/length byte: a bitwise OR, overlapping under `AS_WRITTEN` (43_tick_sequencer.md R148, 10_state.md R31). -/
def perloByte (split : PeriodSplit) (P : BitVec 11) (lengthCounter : BitVec 5) : Byte :=
  byteB split P ||| (lengthCounter.setWidth 8 <<< 3)

/-! ## Instruments and duty -/

/-- The number of a type tag (10_state.md R18). -/
def InstType.tag (tags : TypeTags) : InstType → BitVec 3
  | .none => tags.none
  | .t2A03 => tags.t2A03
  | .vrc6 => tags.vrc6
  | .n163 => tags.n163
  | .s5b => tags.s5b

/-- The supported instrument type an operand of `INST` names; with the default tags 0, 3, 4 and 7 name none
(42_instrument_and_duty.md R125, R126). -/
def supportedType (tags : TypeTags) (t : BitVec 3) : Option InstType :=
  if t = tags.t2A03 then some .t2A03
  else if t = tags.vrc6 then some .vrc6
  else if t = tags.n163 then some .n163
  else if t = tags.s5b then some .s5b
  else none

/-- The handler a successful `INST` makes (42_instrument_and_duty.md R126): maximum volume 0x0F, and the S5B duty offset
for S5B alone. -/
def handlerOf (t : InstType) : Handler := ⟨0x0F, if t = .s5b then 0x40 else 0x00⟩

/-- `ConvertDuty(T, d)`, a pure function of the tag and the value (42_instrument_and_duty.md R128). -/
def convertDuty (t : InstType) (d : Byte) : Byte :=
  match t with
  | .vrc6 => Config.vrc6DutyTable (d.extractLsb' 0 3)
  | .n163 => d
  | .s5b => 0x02
  | .none => d
  | .t2A03 => d

/-! ## Text (30_encoding.md R83, log 21) -/

/-- The ASCII code of an upper-case hexadecimal digit. -/
def hexDigit (n : BitVec 4) : Byte := if n.toNat < 10 then 0x30 + n.setWidth 8 else 0x37 + n.setWidth 8

/-- `%02X` of a byte: two upper-case digits. -/
def hex2 (v : Byte) : List Byte := [hexDigit (v.extractLsb' 4 4), hexDigit (v.extractLsb' 0 4)]

/-- `%X` of a value below 16: one upper-case digit, unpadded. -/
def hex1 (v : BitVec 4) : List Byte := [hexDigit v]

/-- The text " E". -/
def textE : List Byte := [0x20, 0x45]

/-- The text " EE". -/
def textEE : List Byte := [0x20, 0x45, 0x45]

end Sys2Proof.Machine
end

