-- ==== Sys2Proof/Machine/Flags.lean ====
section
/-! DEFINITION. What the block computes from its mode flags: the two conditions that request an envelope reset, the 2-bit
mode code and the classification of the modes (40_note_commands.md R90, 41_effect_commands.md R112,
45_envelope_state_machine.md R175). There are no arithmetic condition codes (10_state.md section 4). -/

namespace Sys2Proof.Machine

/-- The mode code `2*!loop + hw` (45_envelope_state_machine.md R175, 44_system_commands.md R164). -/
def modeCode (envelopeLoop hardwareEnvelope : Bool) : BitVec 2 :=
  BitVec.ofBool (!envelopeLoop) ++ BitVec.ofBool hardwareEnvelope

/-- The mode code of a voice. -/
def Voice.mode (v : Voice) : BitVec 2 := modeCode v.envelopeLoop v.hardwareEnvelope

/-- The three states FT names (45_envelope_state_machine.md R175). -/
inductive EnvelopeState where
  | loop
  | oneShot
  | hardware
  deriving DecidableEq, Repr

/-- The classification of the four flag combinations; (0, 1) is `HardwareEnvelope` (45_envelope_state_machine.md R175,
90_conflicts.md C5). -/
def Voice.envelopeState (v : Voice) : EnvelopeState :=
  if v.hardwareEnvelope then .hardware else if v.envelopeLoop then .loop else .oneShot

/-- The note-on hook's condition: `!envelopeLoop || hardwareEnvelope` (40_note_commands.md R90). -/
def Voice.noteRequestsReset (v : Voice) : Bool := !v.envelopeLoop || v.hardwareEnvelope

/-- The mode switch's condition, on the flags before it: `!envelopeLoop || !hardwareEnvelope` (41_effect_commands.md R112). -/
def Voice.modeRequestsReset (v : Voice) : Bool := !v.envelopeLoop || !v.hardwareEnvelope

/-- The non-default envelope mode, which `EFFSTR` shows: `!envelopeLoop || hardwareEnvelope` (44_system_commands.md R164). -/
def Voice.nonDefaultMode (v : Voice) : Bool := !v.envelopeLoop || v.hardwareEnvelope

/-- The condition of step 7 of `TICK`: the compared byte changed or a reset is pending (43_tick_sequencer.md R148). -/
def Voice.perloDue (v : Voice) (split : PeriodSplit) (P : BitVec 11) : Bool :=
  byteB split P != cmpByte split v.lastPeriod || v.resetEnvelope

end Sys2Proof.Machine
end

