-- ==== Sys2Proof/Machine/Effects.lean ====
section
/-! DEFINITION. The effect commands: `FX` in its five sub-forms, and the same effects as columns of a `ROW`
(41_effect_commands.md R110 to R116). No effect writes the sink or returns a result. -/

namespace Sys2Proof.Machine

open Host (Outcome)

/-- The length load (41_effect_commands.md R111). -/
def doVolfxLen (p : BitVec 5) (v : Voice) : Voice :=
  { v with lengthCounter := p, envelopeLoop := false, resetEnvelope := true }

/-- The mode switch: the reset request reads the old flags, and is never taken back (41_effect_commands.md R112). -/
def doVolfxMode (p : BitVec 2) (v : Voice) : Voice :=
  { v with
    resetEnvelope := v.resetEnvelope || v.modeRequestsReset
    hardwareEnvelope := p.getLsbD 0
    envelopeLoop := !p.getLsbD 1 }

/-- The duty effect: the whole parameter, unmasked (41_effect_commands.md R114). -/
def doDutyfx (p : Byte) (v : Voice) : Voice := { v with dutyDefault := p, dutyPeriod := p }

/-- `do_FX(e, p)` under the selectors of the voice, the five arms (41_effect_commands.md R110). -/
def doFx (sel : Selectors) (c : Fx) (v : Voice) : Voice :=
  if c.e = sel.efVolume ∧ c.p < 0x20#8 then doVolfxLen (c.p.extractLsb' 0 5) v
  else if c.e = sel.efVolume ∧ 0xE0#8 ≤ c.p ∧ c.p < 0xE4#8 then doVolfxMode (c.p.extractLsb' 0 2) v
  else if c.e = sel.efVolume then v
  else if c.e = sel.efDuty then doDutyfx c.p v
  else v

/-- The effect columns of a row, in column order (40_note_commands.md R90). -/
def doColumns (sel : Selectors) (fx : List Fx) (v : Voice) : Voice := fx.foldl (fun v c => doFx sel c v) v

/-- `VOLFX.LEN` (41_effect_commands.md R111). -/
def execVolfxLen (p : BitVec 5) (s : State) : Outcome State Fault Refusal := .next (s.setVoice (doVolfxLen p s.voice))

/-- `VOLFX.MODE` (41_effect_commands.md R112). -/
def execVolfxMode (p : BitVec 2) (s : State) : Outcome State Fault Refusal := .next (s.setVoice (doVolfxMode p s.voice))

/-- `VOLFX.IGN`: silently ignored (41_effect_commands.md R113). -/
def execVolfxIgn (_p : Byte) (s : State) : Outcome State Fault Refusal := .next s

/-- `DUTYFX` (41_effect_commands.md R114). -/
def execDutyfx (p : Byte) (s : State) : Outcome State Fault Refusal := .next (s.setVoice (doDutyfx p s.voice))

/-- `FXOTHER`: ignored, as far as the voice's state goes (41_effect_commands.md R115, log 26). -/
def execFxother (_e _p : Byte) (s : State) : Outcome State Fault Refusal := .next s

end Sys2Proof.Machine
end

