-- ==== Sys2Proof/Machine/Instruments.lean ====
section
/-! DEFINITION. The instrument and duty commands: `INST`, `SEQDUTY`, `CVD` (42_instrument_and_duty.md R125 to R131). None
of them writes the sink. -/

namespace Sys2Proof.Machine

open Host (Outcome)

/-- `INST t`: success replaces handler and tag together, failure changes nothing; either delivers its one bit
(42_instrument_and_duty.md R126, 60_exceptions.md R191; D14, log 15). -/
def execInst (t : BitVec 3) (s : State) : Outcome State Fault Refusal :=
  match supportedType s.params.tags t with
  | some ty => .next ((s.setVoice { s.voice with ih := some (handlerOf ty), instType := ty }).deliver (.ok true))
  | none => .next (s.deliver (.ok false))

/-- `SEQDUTY d`: the converted duty reaches `dutyPeriod` (42_instrument_and_duty.md R129; D15, log 16). -/
def execSeqduty (d : Byte) (s : State) : Outcome State Fault Refusal :=
  .next (s.setVoice { s.voice with dutyPeriod := convertDuty s.voice.instType d })

/-- `CVD d`: the conversion as a query (42_instrument_and_duty.md R130). -/
def execCvd (d : Byte) (s : State) : Outcome State Fault Refusal :=
  .next (s.deliver (.duty (convertDuty s.voice.instType d)))

end Sys2Proof.Machine
end

