-- ==== Sys2Proof/Machine/Notes.lean ====
section
/-! DEFINITION. The note commands: `ROW`, `EMPTY`, `CUT`, `REL`, `NOTE` (40_note_commands.md R90 to R96). None of them
writes the sink or returns a result. -/

namespace Sys2Proof.Machine

open Host (Outcome)

/-- `do_NOTE` (40_note_commands.md R94): the period from the note table, the default duty, the full ceiling. -/
def doNote (note : BitVec 4) (octave : BitVec 3) (v : Voice) : Voice :=
  { v with period := Config.noteTable octave note, dutyPeriod := v.dutyDefault, volCeil := 0x0F }

/-- `do_CUT` (40_note_commands.md R92). -/
def doCut (v : Voice) : Voice := { v with gate := false }

/-- `do_REL` (40_note_commands.md R93). -/
def doRel (v : Voice) : Voice := if v.releasing then v else { v with releasing := true }

/-- The note part of a row, by kind: the note operation, then `releasing` and the gate (40_note_commands.md R90; D6, D7,
log 12). -/
def dispatchNote (kind : RowKind) (note : BitVec 4) (octave : BitVec 3) (v : Voice) : Voice :=
  match kind with
  | .empty => v
  | .pitched => { doNote note octave v with releasing := false, gate := true }
  | .noteOff => { doCut v with releasing := false }
  | .release => doRel v

/-- The hook at the end of a row: a pitched note outside loop mode requests a reset (40_note_commands.md R90). -/
def noteHook (kind : RowKind) (v : Voice) : Voice :=
  if kind = .pitched ∧ v.noteRequestsReset then { v with resetEnvelope := true } else v

/-- The whole of a row: columns, note, hook (40_note_commands.md R90). -/
def doRow (sel : Selectors) (kind : RowKind) (note : BitVec 4) (octave : BitVec 3) (fx : List Fx) (v : Voice) : Voice :=
  noteHook kind (dispatchNote kind note octave (doColumns sel fx v))

/-- `ROW` (40_note_commands.md R90). -/
def execRow (kind : RowKind) (note : BitVec 4) (octave : BitVec 3) (fx : List Fx) (s : State) :
    Outcome State Fault Refusal :=
  .next (s.setVoice (doRow s.params.selectors kind note octave fx s.voice))

/-- `EMPTY`: an intentional no-op (40_note_commands.md R91). -/
def execEmpty (s : State) : Outcome State Fault Refusal := .next s

/-- `CUT` (40_note_commands.md R92): the gate alone; the next `TICK` silences the sink (D21, log 17). -/
def execCut (s : State) : Outcome State Fault Refusal := .next (s.setVoice (doCut s.voice))

/-- `REL` (40_note_commands.md R93). -/
def execRel (s : State) : Outcome State Fault Refusal := .next (s.setVoice (doRel s.voice))

/-- `NOTE` alone: no gate, no `releasing`, no hook (40_note_commands.md R94). -/
def execNote (note : BitVec 4) (octave : BitVec 3) (s : State) : Outcome State Fault Refusal :=
  .next (s.setVoice (doNote note octave s.voice))

end Sys2Proof.Machine
end

