-- ==== Sys2Proof/Machine/System.lean ====
section
/-! DEFINITION. The system commands: `RST`, `CLR`, `EFFSTR` (44_system_commands.md R160 to R165). -/

namespace Sys2Proof.Machine

open Host (Outcome)

/-- The voice after `RST`: the values of 10_state.md R34, column "after RST"; `resetEnvelope` is not written
(44_system_commands.md R160; D18, log 11). -/
def doRst (v : Voice) : Voice :=
  { v with
    envelopeLoop := true
    hardwareEnvelope := false
    lengthCounter := 1
    gate := false
    releasing := false
    period := 0
    volume := 0
    dutyPeriod := 0
    dutyDefault := 0
    lastPeriod := sentinel
    volCeil := 0x0F
    instType := .none
    ih := none }

/-- `RST` (44_system_commands.md R160): no write to the sink. -/
def execRst (s : State) : Outcome State Fault Refusal := .next (s.setVoice (doRst s.voice))

/-- The burst of `CLR`: control, period-high, period-low, in that order (44_system_commands.md R162; D19, log 17). -/
def clrBurst (params : Params) : List SinkWrite :=
  [(addrCtrl params, 0x00), (addrPerhi params, 0x00), (addrPerlo params, 0x00)]

/-- `CLR` (44_system_commands.md R162): three writes and no state of the voice. -/
def execClr (s : State) : Outcome State Fault Refusal := .next (s.emit (clrBurst s.params))

/-- The diagnostic string (44_system_commands.md R164): the length token when not looping, then the mode token in a
non-default mode. -/
def effectString (v : Voice) : List Byte :=
  (if v.envelopeLoop then [] else textE ++ hex2 (v.lengthCounter.setWidth 8)) ++
  (if v.nonDefaultMode then textEE ++ hex1 (v.mode.setWidth 4) else [])

/-- `EFFSTR` (44_system_commands.md R164): the text as the result, no other effect. -/
def execEffstr (s : State) : Outcome State Fault Refusal := .next (s.deliver (.text (effectString s.voice)))

end Sys2Proof.Machine
end

