-- ==== Sys2Proof/Machine/Tick.lean ====
section
/-! DEFINITION. The register write sequencer: `TICK` as one atomic transition with an ordered burst, and the same command
as FT's eight micro-steps (43_tick_sequencer.md R140 to R154; 10_state.md R25 lets a model take either). -/

namespace Sys2Proof.Machine

open Host (Outcome)

/-- Step 1: the computed period and volume are latched (43_tick_sequencer.md R141; D8, log 13). -/
def latch (P : BitVec 11) (V : BitVec 4) (v : Voice) : Voice := { v with period := P, volume := V }

/-- The voice after `TICK P,V`: latched, `lastPeriod` the sentinel or the new period, no reset pending
(43_tick_sequencer.md R140, R145, R149, R150). -/
def tickVoice (P : BitVec 11) (V : BitVec 4) (v : Voice) : Voice :=
  { latch P V v with lastPeriod := if v.gate then P.setWidth 16 else sentinel, resetEnvelope := false }

/-- The burst of `TICK P,V`: silent, short or full (43_tick_sequencer.md R140, R151). -/
def tickBurst (params : Params) (P : BitVec 11) (V : BitVec 4) (v : Voice) : List SinkWrite :=
  if v.gate then
    [(addrEnable, enableMask),
     (addrCtrl params, ctrlByte (dutyCycle v.dutyPeriod) v.envelopeLoop v.hardwareEnvelope V),
     (addrPerhi params, byteA params.periodSplit P)] ++
    (if v.perloDue params.periodSplit P then
      [(addrPerlo params, perloByte params.periodSplit P v.lengthCounter)] else [])
  else
    [(addrEnable, enableMask), (addrCtrl params, silence)]

/-- `TICK` (43_tick_sequencer.md R140). -/
def execTick (P : BitVec 11) (V : BitVec 4) (s : State) : Outcome State Fault Refusal :=
  .next ((s.setVoice (tickVoice P V s.voice)).emit (tickBurst s.params P V s.voice))

/-! ## The eight micro-steps of FT, for 10_state.md R25 -/

/-- Where a `TICK` stands between two of its micro-steps: the machine, the operands, the duty of step 2, and whether
step 4 has ended the writes of this tick. -/
structure TickProgress where
  machine : State
  P : BitVec 11
  V : BitVec 4
  duty : BitVec 2
  silenced : Bool
  deriving DecidableEq, Repr

/-- Step 1: latch. -/
def TickProgress.step1 (t : TickProgress) : TickProgress :=
  { t with machine := t.machine.setVoice { t.machine.voice with period := t.P, volume := t.V } }

/-- Step 2: extract the duty. -/
def TickProgress.step2 (t : TickProgress) : TickProgress := { t with duty := dutyCycle t.machine.voice.dutyPeriod }

/-- Step 3: the enable mask. -/
def TickProgress.step3 (t : TickProgress) : TickProgress := { t with machine := t.machine.regWrite addrEnable enableMask }

/-- Step 4: with the gate off, silence, the sentinel, and no further writes this tick. -/
def TickProgress.step4 (t : TickProgress) : TickProgress :=
  if t.machine.voice.gate then t
  else
    { t with
      machine := (t.machine.regWrite (addrCtrl t.machine.params) silence).setVoice
        { t.machine.voice with lastPeriod := sentinel }
      silenced := true }

/-- Step 5: the control byte. -/
def TickProgress.step5 (t : TickProgress) : TickProgress :=
  if t.silenced then t
  else
    { t with
      machine := t.machine.regWrite (addrCtrl t.machine.params)
        (ctrlByte t.duty t.machine.voice.envelopeLoop t.machine.voice.hardwareEnvelope t.V) }

/-- Step 6: the always-written period byte. -/
def TickProgress.step6 (t : TickProgress) : TickProgress :=
  if t.silenced then t
  else
    { t with machine := t.machine.regWrite (addrPerhi t.machine.params) (byteA t.machine.params.periodSplit t.P) }

/-- Step 7: the gated period and length byte, then the new `lastPeriod` (43_tick_sequencer.md R149; D9, log 14). -/
def TickProgress.step7 (t : TickProgress) : TickProgress :=
  if t.silenced then t
  else
    let m :=
      if t.machine.voice.perloDue t.machine.params.periodSplit t.P then
        t.machine.regWrite (addrPerlo t.machine.params)
          (perloByte t.machine.params.periodSplit t.P t.machine.voice.lengthCounter)
      else t.machine
    { t with machine := m.setVoice { m.voice with lastPeriod := t.P.setWidth 16 } }

/-- Step 8: the pending reset is cleared, in both branches (43_tick_sequencer.md R150, 90_conflicts.md C2). -/
def TickProgress.step8 (t : TickProgress) : TickProgress :=
  { t with machine := t.machine.setVoice { t.machine.voice with resetEnvelope := false } }

/-- The machine after the eight micro-steps of `TICK P,V`. -/
def tickByMicroSteps (P : BitVec 11) (V : BitVec 4) (s : State) : State :=
  let t : TickProgress := ⟨s, P, V, 0, false⟩
  t.step1.step2.step3.step4.step5.step6.step7.step8.machine

end Sys2Proof.Machine
end

