-- ==== Sys2Proof/Machine/Dispatch.lean ====
section
/-! DEFINITION. One arm per command (30_encoding.md R70). -/

namespace Sys2Proof.Machine

def exec (i : Instr) (s : State) : Host.Outcome State Fault Refusal :=
  match i with
  | .rst => Sys2Proof.Machine.execRst s
  | .row kind note octave fx => Sys2Proof.Machine.execRow kind note octave fx s
  | .empty => Sys2Proof.Machine.execEmpty s
  | .cut => Sys2Proof.Machine.execCut s
  | .rel => Sys2Proof.Machine.execRel s
  | .note note octave => Sys2Proof.Machine.execNote note octave s
  | .volfxLen p => Sys2Proof.Machine.execVolfxLen p s
  | .volfxMode p => Sys2Proof.Machine.execVolfxMode p s
  | .volfxIgn p => Sys2Proof.Machine.execVolfxIgn p s
  | .dutyfx p => Sys2Proof.Machine.execDutyfx p s
  | .fxother e p => Sys2Proof.Machine.execFxother e p s
  | .inst t => Sys2Proof.Machine.execInst t s
  | .seqduty d => Sys2Proof.Machine.execSeqduty d s
  | .tick P V => Sys2Proof.Machine.execTick P V s
  | .clr => Sys2Proof.Machine.execClr s
  | .effstr => Sys2Proof.Machine.execEffstr s
  | .cvd d => Sys2Proof.Machine.execCvd d s

end Sys2Proof.Machine
end

