-- ==== Sys2Proof/Machine/Fetch.lean ====
section
/-! DEFINITION. Taking the next command from the command port (10_state.md R25, 20_memory.md R40, 30_encoding.md R73). -/

namespace Sys2Proof.Machine

/-- One turn of the voice. An empty port: it does nothing and keeps its state (60_exceptions.md R205). Words that spell a
command: they are consumed and the command runs to completion (00_scope.md R8). Words that spell none: refused by name
(60_exceptions.md R194). -/
def runNext (s : State) : Host.Outcome State Fault Refusal :=
  match s.port with
  | [] => .next s
  | w :: ws =>
    match decode s.params.selectors (w :: ws) with
    | .ok (i, rest) => exec i (s.setPort rest)
    | .error r => .refused (.spellsNoCommand r)

/-- Words put at the head of the port, before whatever stands there. -/
def State.placeWords (s : State) (ws : List Word) : State := { s with port := ws ++ s.port }

end Sys2Proof.Machine
end

