-- ==== Sys2Proof/Machine/Step.lean ====
section
/-! DEFINITION. One step of the machine: one command (00_scope.md R8, 60_exceptions.md R206). -/

namespace Sys2Proof.Machine

/-- One step: the next command of the port, or nothing where the port is empty. -/
def step (s : State) : Host.Outcome State Fault Refusal := runNext s

/-- The machine with an instruction of the opcode table placed where `step` takes its next command: at the head of the
command port (log 2). -/
def State.withFetchWord (s : State) (nbits w : Nat) : State := s.placeWords (tableWords nbits w)

end Sys2Proof.Machine
end

