-- ==== Sys2Proof/Machine/Pair.lean ====
section
/-! DEFINITION. The dual-square-wave family: two voices that share nothing but the sink (60_exceptions.md R204), and the
sink's trace as an interleaving of their whole bursts in the order the owner runs the commands (20_memory.md R50). Built
over `step`, which is one voice's; it adds no meaning of its own (log 20). -/

namespace Sys2Proof.Machine

/-- Two voices and the one write trace their sink has received. -/
structure Pair where
  voice0 : State
  voice1 : State
  sink : List SinkWrite
  deriving DecidableEq, Repr

/-- The voice with an index. -/
def Pair.get (p : Pair) (c : Channel) : State := if c = 0 then p.voice0 else p.voice1

/-- The pair with one voice replaced. -/
def Pair.set (p : Pair) (c : Channel) (s : State) : Pair := if c = 0 then { p with voice0 := s } else { p with voice1 := s }

/-- The writes a step added to a voice's trace: its burst (20_memory.md R48). -/
def burstBetween (s t : State) : List SinkWrite := t.trace.drop s.trace.length

/-- One command of the voice `c`: that voice steps, and the sink receives its burst whole (20_memory.md R50). -/
def Pair.stepVoice (c : Channel) (p : Pair) : Host.Outcome Pair Fault Refusal :=
  match step (p.get c) with
  | .next t => .next { p.set c t with sink := p.sink ++ burstBetween (p.get c) t }
  | .fault r => .fault r
  | .refused r => .refused r

/-- The owner's schedule: which voice runs its next command, turn after turn; left open (D28), so claims quantify over it. -/
def Pair.run : List Channel → Pair → Host.Outcome Pair Fault Refusal
  | [], p => .next p
  | c :: cs, p =>
    match p.stepVoice c with
    | .next q => Pair.run cs q
    | .fault r => .fault r
    | .refused r => .refused r

/-- Both voices after power-on, with the same parameters but each with its own index, over an empty trace (60_exceptions.md
R204). -/
def Pair.reset (params : Params) : Pair where
  voice0 := { State.reset with params := { params with ch := 0 } }
  voice1 := { State.reset with params := { params with ch := 1 } }
  sink := []

end Sys2Proof.Machine
end

