-- ==== Sys2Proof/Safety.lean ====
section
/-! DEFINITION. Runs of commands, what a safe run is, the invariant, and the notions the statements are made in
(60_exceptions.md R206; 10_state.md R15, R19, R44; 45_envelope_state_machine.md R180). -/

namespace Sys2Proof.Machine

open Host (Outcome)

/-! ## Runs -/

/-- A run of decoded commands: the fold of their meanings (60_exceptions.md R206). -/
def execAll : List Instr → State → Outcome State Fault Refusal
  | [], s => .next s
  | i :: is, s =>
    match exec i s with
    | .next t => execAll is t
    | .fault r => .fault r
    | .refused r => .refused r

/-- The burst of one command: what it appends to the write trace (20_memory.md R48). -/
def burst (i : Instr) (s : State) : List SinkWrite :=
  match exec i s with
  | .next t => burstBetween s t
  | .fault _ => []
  | .refused _ => []

/-- The bursts of a run of commands, in command order. -/
def bursts : List Instr → State → List (List SinkWrite)
  | [], _ => []
  | i :: is, s =>
    burst i s ::
      match exec i s with
      | .next t => bursts is t
      | .fault _ => []
      | .refused _ => []

/-- The words a run of commands is issued as. -/
def encodeAll (sel : Selectors) (is : List Instr) : List Word := is.flatMap (encode sel)

/-! ## Safe runs -/

/-- A state from which the machine does not stop: every word on the port belongs to a command (30_encoding.md R72). -/
def State.safe (s : State) : Prop :=
  ∃ is : List Instr, (∀ i ∈ is, i.wellFormed s.params.selectors = true) ∧ s.port = encodeAll s.params.selectors is

/-! ## The invariant -/

/-- The addresses the voice writes (20_memory.md R44). -/
def sinkAddrs (params : Params) : List Addr := [addrEnable, addrCtrl params, addrPerhi params, addrPerlo params]

/-- The four addresses of one voice are distinct from each other, which a model must keep (93_implementation_defined.md U7). -/
abbrev distinctAddrs (params : Params) : Prop := (sinkAddrs params).Nodup

/-- Two tags never share a number (92_eei_decisions.md D13: any injective numbering works). -/
abbrev distinctTags (tags : TypeTags) : Prop := [tags.none, tags.t2A03, tags.vrc6, tags.n163, tags.s5b].Nodup

/-- Parameters as the spec wants them: distinct addresses (93_implementation_defined.md U7), an injective numbering of the type
tags (92_eei_decisions.md D13), two different selectors (41_effect_commands.md R110, the arms of the two effects disjoint). -/
abbrev legalParams (params : Params) : Prop :=
  distinctAddrs params ∧ distinctTags params.tags ∧ params.selectors.efVolume ≠ params.selectors.efDuty

/-- `lastPeriod` holds an 11-bit period or the sentinel (10_state.md R15), the handler is the one of the current type
(42_instrument_and_duty.md R126), and the volume ceiling is full scale (10_state.md R17, R34). -/
abbrev Voice.inv (v : Voice) : Prop :=
  (v.lastPeriod = sentinel ∨ v.lastPeriod.toNat < 0x800) ∧
  v.ih = (if v.instType = .none then none else some (handlerOf v.instType)) ∧
  v.volCeil = 0x0F

/-- A write of the voice: to one of its four addresses, the enable mask at the first, a period byte of three bits at the
third under `AS_WRITTEN` (20_memory.md R44; 10_state.md R28, R30). -/
abbrev writeInv (params : Params) (w : SinkWrite) : Prop :=
  w.1 ∈ sinkAddrs params ∧
  (w.1 = addrEnable → w.2 = enableMask) ∧
  (params.periodSplit = .asWritten → w.1 = addrPerhi params → w.2.toNat < 8)

/-- A text on the status port has 0, 4 or 8 characters (30_encoding.md R62, R83). -/
abbrev resultInv : Result → Prop
  | .ok _ => True
  | .duty _ => True
  | .text t => t.length = 0 ∨ t.length = 4 ∨ t.length = 8

/-- The invariant of the machine. -/
abbrev State.inv (s : State) : Prop :=
  legalParams s.params ∧ s.voice.inv ∧ (∀ w ∈ s.trace, writeInv s.params w) ∧ (∀ r ∈ s.results, resultInv r)

/-! ## Notions of the statements -/

/-- The columns of a row that set or switch the envelope mode (41_effect_commands.md R111, R112). -/
def columnSetsMode (sel : Selectors) (c : Fx) : Bool := c.e == sel.efVolume && !ignoredVolumeParam c.p

/-- An effect column the voice ignores (60_exceptions.md R192): an unknown selector, or a volume parameter outside both
ranges. -/
def columnIgnored (sel : Selectors) (c : Fx) : Bool := otherSelector sel c.e || (c.e == sel.efVolume && ignoredVolumeParam c.p)

/-- The commands 43_tick_sequencer.md R152 names as leaving its premise alone: none of them sets `resetEnvelope` or writes
`lastPeriod`, or opens the gate. -/
def leavesDiffing (sel : Selectors) : Instr → Bool
  | .cut | .rel | .note _ _ | .empty | .dutyfx _ | .inst _ | .seqduty _ | .cvd _ | .effstr | .clr
  | .volfxIgn _ | .fxother _ _ => true
  | .row kind _ _ fx => decide (kind ≠ .pitched) && fx.all (fun c => !columnSetsMode sel c)
  | .rst | .volfxLen _ | .volfxMode _ | .tick _ _ => false

/-- A command that, in this state, is a tick with the full burst (43_tick_sequencer.md R151): a gated-on one whose step 7
writes `PERLO`. -/
def isFullTick : Instr → State → Bool
  | .tick P _, s => s.voice.gate && s.voice.perloDue s.params.periodSplit P
  | .rst, _ | .row _ _ _ _, _ | .empty, _ | .cut, _ | .rel, _ | .note _ _, _ | .volfxLen _, _ | .volfxMode _, _
  | .volfxIgn _, _ | .dutyfx _, _ | .fxother _ _, _ | .inst _, _ | .seqduty _, _ | .clr, _ | .effstr, _ | .cvd _, _ => false

/-- No tick of this run of commands is a full one. -/
def noFullTick : List Instr → State → Bool
  | [], _ => true
  | i :: is, s =>
    !isFullTick i s &&
      match exec i s with
      | .next t => noFullTick is t
      | .fault _ => true
      | .refused _ => true

/-- The value of an upper-case hexadecimal digit (30_encoding.md R83). -/
def hexValue (c : Byte) : Option (BitVec 4) :=
  if 0x30#8 ≤ c ∧ c ≤ 0x39#8 then some ((c - 0x30#8).setWidth 4)
  else if 0x41#8 ≤ c ∧ c ≤ 0x46#8 then some ((c - 0x37#8).setWidth 4)
  else none

/-- The effects a text spells as the tracker writes them: each token a space, the letter E of the volume effect, and its
parameter as two hexadecimal digits (44_system_commands.md R165). -/
def spelledEffects (sel : Selectors) : List Byte → Option (List Instr)
  | [] => some []
  | space :: letter :: high :: low :: rest =>
    if space = 0x20#8 ∧ letter = 0x45#8 then
      match hexValue high, hexValue low, spelledEffects sel rest with
      | some h, some l, some is => some (decodeFx sel sel.efVolume (h ++ l) :: is)
      | _, _, _ => none
    else none
  | _ => none

/-- The voice with the registers that reach no output set to fixed values: `period`, `volume`, `volCeil` and `ih` are read
by nothing in the block (10_state.md R11, R12, R17, R19) and `releasing` only by `REL` (R24). -/
def Voice.masked (v : Voice) : Voice :=
  { v with period := 0, volume := 0, volCeil := 0, ih := none, releasing := false }

/-- The bursts of a voice's next steps, one per step (20_memory.md R48); an idle step has the empty burst. -/
def stepBursts : Nat → State → List (List SinkWrite)
  | 0, _ => []
  | n + 1, s =>
    match step s with
    | .next t => burstBetween s t :: stepBursts n t
    | .fault _ => []
    | .refused _ => []

/-- Of the bursts of a schedule, one per turn, those of one voice's turns, in order. -/
def turnsOf (c : Channel) (cs : List Channel) (bs : List (List SinkWrite)) : List (List SinkWrite) :=
  ((cs.zip bs).filter (fun turn => decide (turn.1 = c))).map (·.2)

/-- The sink addresses that are one voice's alone: all but the shared `ENABLE` (60_exceptions.md R204). -/
def ownAddrs (params : Params) : List Addr := [addrCtrl params, addrPerhi params, addrPerlo params]

/-- The writes of a trace that go to a voice's own addresses. -/
def ownWrites (params : Params) (trace : List SinkWrite) : List SinkWrite :=
  trace.filter (fun w => decide (w.1 ∈ ownAddrs params))

/-- All addresses the two voices write. -/
def familyAddrs (addrs : AddressMap) : List Addr :=
  [addrEnable, addrs.voice0.ctrl, addrs.voice0.perhi, addrs.voice0.perlo, addrs.voice1.ctrl, addrs.voice1.perhi,
    addrs.voice1.perlo]

/-- Two voices over one sink as they are meant to be: the same address functions, under which they share `ENABLE` alone
(60_exceptions.md R204); each with its own index; every write at one of its addresses; and to its own addresses each has
sent exactly what the sink has received there (20_memory.md R50). -/
def Pair.inv (p : Pair) : Prop :=
  p.voice1.params.addrs = p.voice0.params.addrs ∧ (familyAddrs p.voice0.params.addrs).Nodup ∧
  (∀ w ∈ p.sink, w.1 ∈ familyAddrs p.voice0.params.addrs) ∧
  ∀ c : Channel, (p.get c).params.ch = c ∧ (∀ w ∈ (p.get c).trace, writeInv (p.get c).params w) ∧
    ownWrites (p.get c).params p.sink = ownWrites (p.get c).params (p.get c).trace

end Sys2Proof.Machine
end

