-- ==== Sys2Proof/Certificates/Slice0/Obligations.lean ====
section
/-! DEFINITION. The statements about the voice, one definition each. A docstring names the rule of spec/ a statement
formalises; where a clause rests on a decision of the spec (D<n> of 92_eei_decisions.md) or of the model it says so and
names the log entry. -/

open Sys2Proof Sys2Proof.Machine

/-! ## The step, runs, and where the machine stops -/

/-- One step runs the command its port spells under the selectors of the voice, with the words consumed, idles on an empty
port and refuses words that spell none, with the decoder's reason (60_exceptions.md R205, R206, R194; the port is the model's
own, log 1). -/
def Obligations.StepRunsTheDecodedCommand : Prop :=
  ∀ s : State,
    (s.port = [] → step s = .next s) ∧
    (∀ i rest, decode s.params.selectors s.port = .ok (i, rest) → step s = exec i { s with port := rest }) ∧
    (∀ r, s.port ≠ [] → decode s.params.selectors s.port = .error r → step s = .refused (.spellsNoCommand r))

/-- No step faults, and a step is refused exactly when the port is not empty and begins with the words of no well-formed
command (60_exceptions.md R190, R194, R206; refusing is decision D3, log 18). -/
def Obligations.StepIsRefusedExactlyWhereNoCommandIsSpelled : Prop :=
  ∀ s : State,
    (∀ r, step s ≠ .fault r) ∧
    ((∃ r, step s = .refused r) ↔
      s.port ≠ [] ∧ ¬ ∃ i rest, i.wellFormed s.params.selectors = true ∧ s.port = encode s.params.selectors i ++ rest)

/-- A run of the machine over issued commands is the fold of their meanings: after one step per command the words are
consumed and the state is the one the meanings give (60_exceptions.md R206). -/
def Obligations.RunOfIssuedCommandsIsTheFoldOfMeanings : Prop :=
  ∀ (is : List Instr) (rest : List Word) (s : State), (∀ i ∈ is, i.wellFormed s.params.selectors = true) →
    Host.Core.run Sys2Proof.core is.length { s with port := encodeAll s.params.selectors is ++ rest } =
      execAll is { s with port := rest }

/-- From a state whose port holds whole commands the machine never stops, and every step leaves such a state
(60_exceptions.md R190, R206). -/
def Obligations.PortsOfWholeCommandsNeverStopTheMachine : Prop :=
  ∀ s : State, s.safe → ∃ t, step s = .next t ∧ t.safe

/-- Every command completes in every state and yields a next state: none can trap, hang, block or be refused
(60_exceptions.md R190, R206). -/
def Obligations.EveryCommandCompletesInEveryState : Prop :=
  ∀ (i : Instr) (s : State), ∃ t, exec i s = .next t

/-! ## Encodings (the command word is the spec's own decision D2, log 18)

The selectors of the two effects are parameters (93_implementation_defined.md U10, log 29): a claim about encodings holds for
every value of them, and a word written out is one under the defaults 0x45 and 0x56. -/

/-- Decoding the words of a well-formed command gives the command, whatever follows it and whatever the selectors are
(30_encoding.md R60, R61, R70, R73). -/
def Obligations.DecodeOfEncodeIsTheCommand : Prop :=
  ∀ (sel : Selectors) (i : Instr) (rest : List Word), i.wellFormed sel = true →
    decode sel (encode sel i ++ rest) = .ok (i, rest)

/-- What decodes is well formed and is exactly the words of the command decoded: every word stream has one meaning
(30_encoding.md R60, R61, R70, R72, R73). -/
def Obligations.DecodedWordsAreTheWordsOfTheCommand : Prop :=
  ∀ (sel : Selectors) (ws rest : List Word) (i : Instr), decode sel ws = .ok (i, rest) →
    i.wellFormed sel = true ∧ ws = encode sel i ++ rest

/-- The opcode table and the decoder agree, whatever the selectors are: the first row that covers the first word names the
decoded command; a word that no row covers spells no command; a word covered by a row other than ROW's spells one; and two
different rows cover a common word only if both are rows of `FX` (30_encoding.md R70; encodings by D2). -/
def Obligations.FirstTableRowNamesTheDecodedCommand : Prop :=
  ∀ sel : Selectors,
    (∀ (w : Word) (ws rest : List Word) (i : Instr), decode sel (w :: ws) = .ok (i, rest) →
      (firstRow sel w).map (·.mnemonic) = some i.mnemonic) ∧
    (∀ (w : Word) (ws : List Word), firstRow sel w = none → ∃ r, decode sel (w :: ws) = .error r) ∧
    (∀ (w : Word) (ws : List Word) (r : TableRow), firstRow sel w = some r → r.mnemonic ≠ "ROW" →
      ∃ i, decode sel (w :: ws) = .ok (i, ws)) ∧
    (∀ r₁ ∈ opcodeTable sel, ∀ r₂ ∈ opcodeTable sel, r₁ ≠ r₂ → ∀ w : Word, r₁.covers w = true → r₂.covers w = true →
      opcodeOf w = 0x06 ∧ r₁.pat &&& 0xFF000000 = 0x06000000 ∧ r₂.pat &&& 0xFF000000 = 0x06000000)

/-- Words that spell no command are refused, each for its reason: an opcode 0x0D to 0xFF; a must-be-zero bit that is not
zero, for each format; a `ROW` whose extension words end early, or one of which is no format-F word with opcode 0x06
(30_encoding.md R72, R73; refusing is decision D3, log 18). -/
def Obligations.WordsThatSpellNoCommandAreRefused : Prop :=
  (∀ (s : State) (w : Word) (ws : List Word), 0x0D ≤ (opcodeOf w).toNat →
    step { s with port := w :: ws } = .refused (.spellsNoCommand .unassignedOpcode)) ∧
  (∀ (s : State) (op : Op) (w : Word) (ws : List Word), opcodeOf w = op.byte →
    w &&& (match op with
      | .rst | .empty | .cut | .rel | .clr | .effstr => 0x00FFFFFF#32
      | .row => 0x00000FFF#32
      | .note => 0x00C07FFF#32
      | .fx => 0x00FF0000#32
      | .inst => 0x00FFFFF8#32
      | .seqduty | .cvd => 0x00FFFF00#32
      | .tick => 0x00FF8000#32) ≠ 0 →
    step { s with port := w :: ws } = .refused (.spellsNoCommand .nonZeroMustBeZero)) ∧
  (∀ (s : State) (k : RowKind) (n : BitVec 4) (o x : BitVec 3) (fx : List Fx), fx.length < x.toNat →
    step { s with port := wordR k n o x :: fx.map (fun c => wordF c.e c.p) } =
      .refused (.spellsNoCommand .missingExtension)) ∧
  (∀ (s : State) (k : RowKind) (n : BitVec 4) (o x : BitVec 3) (fx : List Fx) (w : Word) (ws : List Word),
    fx.length < x.toNat → ¬ (opcodeOf w = 0x06 ∧ w &&& 0x00FF0000#32 = 0) →
    step { s with port := wordR k n o x :: (fx.map (fun c => wordF c.e c.p) ++ w :: ws) } =
      .refused (.spellsNoCommand .badExtension))

/-- Words written out in 95_test_vectors.md section 2.1 (C1, C4, C6, C7, C10, C11, C12 to C18, C20, C24) decode to the
commands named there, under the default selectors (R6 of 00_scope.md). -/
def Obligations.SpecWordsDecodeAsWritten : Prop :=
  decode defaultSelectors [0x00000000] = .ok (.rst, []) ∧
  decode defaultSelectors [0x01659000, 0x06004510] = .ok (.row .pitched 9 3 [⟨0x45, 0x10⟩], []) ∧
  decode defaultSelectors [0x01C02000, 0x06005601, 0x060045E2] = .ok (.row .release 0 0 [⟨0x56, 0x01⟩, ⟨0x45, 0xE2⟩], []) ∧
  decode defaultSelectors (0x017FF000 :: List.replicate 7 0x06000000) =
    .ok (.row .pitched 15 7 (List.replicate 7 ⟨0x00, 0x00⟩), []) ∧
  decode defaultSelectors [0x04000000] = .ok (.rel, []) ∧
  decode defaultSelectors [0x05258000] = .ok (.note 9 3, []) ∧
  decode defaultSelectors [0x0600451F] = .ok (.volfxLen 0x1F, []) ∧
  decode defaultSelectors [0x06004520] = .ok (.volfxIgn 0x20, []) ∧
  decode defaultSelectors [0x060045E3] = .ok (.volfxMode 3, []) ∧
  decode defaultSelectors [0x060045E4] = .ok (.volfxIgn 0xE4, []) ∧
  decode defaultSelectors [0x060056FF] = .ok (.dutyfx 0xFF, []) ∧
  decode defaultSelectors [0x06004410] = .ok (.fxother 0x44 0x10, []) ∧
  decode defaultSelectors [0x07000006] = .ok (.inst 6, []) ∧
  decode defaultSelectors [0x09007FFF] = .ok (.tick 0x7FF 0xF, []) ∧
  decode defaultSelectors [0x0C000081] = .ok (.cvd 0x81, [])

/-- The four pseudo-commands expand to the one real command of the table: `VOL p` and `DUTY p` to `FX` with the volume and
the duty selector, by default `FX 0x45,p` and `FX 0x56,p`, `LEN n` to the length load of `n`, `ENVMODE m` to the mode switch of
code `m` (30_encoding.md R82; the assembler's syntax is decision D27). -/
def Obligations.PseudoCommandsExpandToEffects : Prop :=
  let words : Pseudo → List Word := fun q => encode defaultSelectors (q.expand defaultSelectors)
  (∀ sel : Selectors,
    (∀ p : Byte, encode sel ((Pseudo.vol p).expand sel) = [wordF sel.efVolume p]) ∧
    (∀ p : Byte, encode sel ((Pseudo.duty p).expand sel) = [wordF sel.efDuty p]) ∧
    (∀ n : BitVec 5, (Pseudo.len n).expand sel = .volfxLen n) ∧
    (∀ m : BitVec 2, (Pseudo.envmode m).expand sel = .volfxMode m)) ∧
  (∀ p : Byte, words (.vol p) = [0x06004500#32 ||| p.setWidth 32]) ∧
  (∀ p : Byte, words (.duty p) = [0x06005600#32 ||| p.setWidth 32]) ∧
  (∀ n : BitVec 5, words (.len n) = [0x06004500#32 ||| n.setWidth 32]) ∧
  (∀ m : BitVec 2, words (.envmode m) = [0x060045E0#32 ||| m.setWidth 32])

/-! ## Reset -/

/-- The machine after power-on, and the first tick after it: silent, exactly two writes (10_state.md R34, R219 of
70_reset_and_hazards.md). Of the values, `envelopeLoop`, `hardwareEnvelope` and `lengthCounter` are the source's; the rest
are decision D18 (log 11), the empty port the model's (log 1); the parameters are at the defaults of decisions D10 to D13
(log 5, 29). -/
def Obligations.ResetStateAndItsFirstTick : Prop :=
  (State.reset.voice.envelopeLoop = true ∧ State.reset.voice.hardwareEnvelope = false ∧
    State.reset.voice.lengthCounter = 1 ∧ State.reset.voice.resetEnvelope = false ∧ State.reset.voice.gate = false ∧
    State.reset.voice.releasing = false ∧ State.reset.voice.period = 0 ∧ State.reset.voice.volume = 0 ∧
    State.reset.voice.dutyPeriod = 0 ∧ State.reset.voice.dutyDefault = 0 ∧ State.reset.voice.lastPeriod = 0xFFFF ∧
    State.reset.voice.volCeil = 0x0F ∧ State.reset.voice.instType = .none ∧ State.reset.voice.ih = none ∧
    State.reset.trace = [] ∧ State.reset.results = [] ∧ State.reset.port = []) ∧
  (State.reset.params.periodSplit = .asWritten ∧ State.reset.params.selectors = ⟨0x45, 0x56⟩ ∧
    State.reset.params.tags = ⟨0, 1, 2, 5, 6⟩) ∧
  (∀ (P : BitVec 11) (V : BitVec 4), ∃ t, step { State.reset with port := [wordT P V] } = .next t ∧
    t.trace = [(0x5015, 0x03), (addrCtrl State.reset.params, 0x30)])

/-- `RST` (44_system_commands.md, RST): the three values of the source, the others of decision D18 (log 11), and
`resetEnvelope`, the parameters, the port and the outputs left as they are. -/
def Obligations.RstResult : Prop :=
  ∀ s : State, exec .rst s = .next { s with
    voice :=
      { period := 0, volume := 0, dutyPeriod := 0, dutyDefault := 0, lastPeriod := 0xFFFF, lengthCounter := 1,
        volCeil := 0x0F, instType := .none, ih := none, gate := false, hardwareEnvelope := false, envelopeLoop := true,
        resetEnvelope := s.voice.resetEnvelope, releasing := false } }

/-! ## Note commands -/

/-- `ROW` by kind, after its columns in column order: empty nothing; pitched the note, the gate, `releasing` cleared and the
hook; note-off the cut and `releasing` cleared; release the release (40_note_commands.md, ROW; the base contract's part is
decisions D5, D6, D7, log 12). -/
def Obligations.RowResultByKind : Prop :=
  ∀ (n : BitVec 4) (o : BitVec 3) (fx : List Fx) (s : State),
    let v := fx.foldl (fun v c => doFx s.params.selectors c v) s.voice
    exec (.row .empty n o fx) s = .next { s with voice := v } ∧
    exec (.row .pitched n o fx) s = .next { s with
      voice := { v with
        period := Config.noteTable o n, dutyPeriod := v.dutyDefault, volCeil := 0x0F, releasing := false, gate := true,
        resetEnvelope := if v.envelopeLoop = false ∨ v.hardwareEnvelope = true then true else v.resetEnvelope } } ∧
    exec (.row .noteOff n o fx) s = .next { s with voice := { v with gate := false, releasing := false } } ∧
    exec (.row .release n o fx) s = .next { s with voice := { v with releasing := true } }

/-- `EMPTY` changes nothing at all, and its word is 0x02000000 (40_note_commands.md R91). -/
def Obligations.EmptyChangesNothing : Prop :=
  (∀ (sel : Selectors) (ws : List Word), decode sel (0x02000000#32 :: ws) = .ok (.empty, ws)) ∧
  ∀ s : State, exec .empty s = .next s

/-- `CUT` clears the gate and `REL` sets `releasing`, each nothing else; `REL` leaves the gate (40_note_commands.md, CUT and
REL; that `CUT` writes no byte is decision D21, log 17, that release is the one flag is decision D7, log 12). -/
def Obligations.CutAndReleaseResults : Prop :=
  ∀ s : State,
    exec .cut s = .next { s with voice := { s.voice with gate := false } } ∧
    exec .rel s = .next { s with voice := { s.voice with releasing := true } }

/-- `NOTE`: the period of the note table, the default duty, the full ceiling, and no flag; its word by mask and match
(40_note_commands.md R94). The note table's value is free (log 6). -/
def Obligations.NoteResult : Prop :=
  (∀ (sel : Selectors) (w : Word) (ws : List Word), w &&& 0xFFC07FFF#32 = 0x05000000#32 →
    decode sel (w :: ws) = .ok (.note (w.extractLsb' 18 4) (w.extractLsb' 15 3), ws)) ∧
  ∀ (n : BitVec 4) (o : BitVec 3) (s : State), exec (.note n o) s = .next { s with
    voice := { s.voice with period := Config.noteTable o n, dutyPeriod := s.voice.dutyDefault, volCeil := 0x0F } }

/-- The order inside a row does not change the result: the note before the columns gives the state the columns before the
note give, as long as the hook stays last (40_note_commands.md R95, derived there). -/
def Obligations.NoteBeforeColumnsGivesTheSameRow : Prop :=
  ∀ (k : RowKind) (n : BitVec 4) (o : BitVec 3) (fx : List Fx) (s : State),
    exec (.row k n o fx) s =
      .next { s with voice := noteHook k (doColumns s.params.selectors fx (dispatchNote k n o s.voice)) }

/-- A note restores the default duty: a `SEQDUTY` before a `NOTE`, or before a pitched `ROW` with any columns, is lost; a
duty effect before it survives, unless a column of the row is a duty effect itself (70_reset_and_hazards.md R234; that
`SEQDUTY` writes `dutyPeriod` and nothing else is decision D15, log 16). -/
def Obligations.NoteRestoresTheDefaultDuty : Prop :=
  (∀ (d : Byte) (n : BitVec 4) (o : BitVec 3) (s : State),
    execAll [.seqduty d, .note n o] s = execAll [.note n o] s) ∧
  (∀ (d : Byte) (n : BitVec 4) (o : BitVec 3) (fx : List Fx) (s : State),
    execAll [.seqduty d, .row .pitched n o fx] s = execAll [.row .pitched n o fx] s) ∧
  (∀ (p : Byte) (n : BitVec 4) (o : BitVec 3) (s : State),
    ∃ t, execAll [.dutyfx p, .note n o] s = .next t ∧ t.voice.dutyPeriod = p) ∧
  (∀ (p : Byte) (n : BitVec 4) (o : BitVec 3) (fx : List Fx) (s : State),
    (∀ c ∈ fx, c.e ≠ s.params.selectors.efDuty) →
    ∃ t, execAll [.dutyfx p, .row .pitched n o fx] s = .next t ∧ t.voice.dutyPeriod = p)

/-! ## Effect commands -/

/-- Volume effect below 0x20: the length value, not looping, a reset pending, nothing else; its word by mask and match, under
the default selectors (41_effect_commands.md R111). -/
def Obligations.VolumeLengthResult : Prop :=
  (∀ (w : Word) (ws : List Word), w &&& 0xFFFFFFE0#32 = 0x06004500#32 →
    decode defaultSelectors (w :: ws) = .ok (.volfxLen (w.extractLsb' 0 5), ws)) ∧
  ∀ (p : BitVec 5) (s : State), exec (.volfxLen p) s = .next { s with
    voice := { s.voice with lengthCounter := p, envelopeLoop := false, resetEnvelope := true } }

/-- Volume effect 0xE0 to 0xE3: a reset request by the old mode, never taken back, then both mode flags from the two low bits;
its word by mask and match, under the default selectors (41_effect_commands.md R112). -/
def Obligations.VolumeModeResult : Prop :=
  (∀ (w : Word) (ws : List Word), w &&& 0xFFFFFFFC#32 = 0x060045E0#32 →
    decode defaultSelectors (w :: ws) = .ok (.volfxMode (w.extractLsb' 0 2), ws)) ∧
  ∀ (p : BitVec 2) (s : State), exec (.volfxMode p) s = .next { s with
    voice := { s.voice with
      resetEnvelope :=
        if s.voice.envelopeLoop = false ∨ s.voice.hardwareEnvelope = false then true else s.voice.resetEnvelope
      hardwareEnvelope := p.getLsbD 0
      envelopeLoop := !p.getLsbD 1 } }

/-- A volume effect outside both ranges, and an effect with any other selector, change nothing; their words by mask and match
after the rows above them have failed, under the default selectors (41_effect_commands.md R113, R115). -/
def Obligations.IgnoredEffectsChangeNothing : Prop :=
  (∀ (w : Word) (ws : List Word), w &&& 0xFFFFFF00#32 = 0x06004500#32 → w &&& 0xFFFFFFE0#32 ≠ 0x06004500#32 →
    w &&& 0xFFFFFFFC#32 ≠ 0x060045E0#32 →
    decode defaultSelectors (w :: ws) = .ok (.volfxIgn (w.extractLsb' 0 8), ws)) ∧
  (∀ (w : Word) (ws : List Word), w &&& 0xFFFF0000#32 = 0x06000000#32 → w &&& 0xFFFFFF00#32 ≠ 0x06004500#32 →
    w &&& 0xFFFFFF00#32 ≠ 0x06005600#32 →
    decode defaultSelectors (w :: ws) = .ok (.fxother (w.extractLsb' 8 8) (w.extractLsb' 0 8), ws)) ∧
  (∀ (p : Byte) (s : State), exec (.volfxIgn p) s = .next s) ∧
  (∀ (e p : Byte) (s : State), exec (.fxother e p) s = .next s)

/-- The duty effect stores its whole parameter in both duty registers, unmasked, and does nothing else; its word by mask and
match, under the default selectors (41_effect_commands.md R114). -/
def Obligations.DutyEffectResult : Prop :=
  (∀ (w : Word) (ws : List Word), w &&& 0xFFFFFF00#32 = 0x06005600#32 →
    decode defaultSelectors (w :: ws) = .ok (.dutyfx (w.extractLsb' 0 8), ws)) ∧
  ∀ (p : Byte) (s : State), exec (.dutyfx p) s = .next { s with
    voice := { s.voice with dutyDefault := p, dutyPeriod := p } }

/-- The dispatch of `FX e,p` over its five arms, which cover every selector and parameter, and the same effect as the one
column of an empty row, whatever the two selectors of the voice are; where these differ, exactly one arm applies; and they
are 0x45 and 0x56 by default, so after power-on (41_effect_commands.md R110; that the selectors are parameters with these
defaults is decision D12, 93_implementation_defined.md U10, log 29). -/
def Obligations.EffectDispatchAndColumnAgree : Prop :=
  (∀ (e p : Byte) (s : State),
    let sel := s.params.selectors
    let i : Instr :=
      if e = sel.efVolume ∧ p < 0x20#8 then .volfxLen (p.extractLsb' 0 5)
      else if e = sel.efVolume ∧ 0xE0#8 ≤ p ∧ p < 0xE4#8 then .volfxMode (p.extractLsb' 0 2)
      else if e = sel.efVolume then .volfxIgn p
      else if e = sel.efDuty then .dutyfx p
      else .fxother e p
    (∀ ws : List Word, decode sel (wordF e p :: ws) = .ok (i, ws)) ∧
    (∀ (n : BitVec 4) (o : BitVec 3),
      exec i s = .next { s with voice := doFx sel ⟨e, p⟩ s.voice } ∧ exec (.row .empty n o [⟨e, p⟩]) s = exec i s)) ∧
  (∀ (e p : Byte) (sel : Selectors), sel.efVolume ≠ sel.efDuty →
    [decide (e = sel.efVolume ∧ p < 0x20#8), decide (e = sel.efVolume ∧ 0xE0#8 ≤ p ∧ p < 0xE4#8),
      decide (e = sel.efVolume ∧ ¬ p < 0x20#8 ∧ ¬ (0xE0#8 ≤ p ∧ p < 0xE4#8)), decide (e = sel.efDuty),
      decide (e ≠ sel.efVolume ∧ e ≠ sel.efDuty)].count true = 1) ∧
  defaultSelectors = ⟨0x45, 0x56⟩ ∧ State.reset.params.selectors = defaultSelectors

/-- An ignored effect completes and changes nothing, and as a column of a row it does not stop the remaining columns, the
note or the hook (60_exceptions.md R192). -/
def Obligations.IgnoredColumnsDoNotStopTheRow : Prop :=
  ∀ (c : Fx) (s : State), columnIgnored s.params.selectors c = true →
    exec (decodeFx s.params.selectors c.e c.p) s = .next s ∧
    (∀ (k : RowKind) (n : BitVec 4) (o : BitVec 3) (before after : List Fx),
      exec (.row k n o (before ++ c :: after)) s = exec (.row k n o (before ++ after)) s)

/-! ## Instrument and duty commands -/

/-- `INST`: the four supported types replace handler and tag and deliver success, with the duty offset 0x40 for S5B alone;
every other operand delivers failure and changes nothing. The numbers of the types are parameters, whatever distinct numbers
they are; by default, which the machine has after power-on, 1, 2, 5 and 6 are supported and 0, 3, 4 and 7 are not
(42_instrument_and_duty.md, INST; the tag's update and what failure keeps are decision D14, log 15, the default numbers
decision D13, that they are parameters 93_implementation_defined.md U10, log 29). -/
def Obligations.InstResult : Prop :=
  (∀ s : State, distinctTags s.params.tags →
    exec (.inst s.params.tags.t2A03) s = .next { s with
      voice := { s.voice with ih := some ⟨0x0F, 0x00⟩, instType := .t2A03 }, results := s.results ++ [.ok true] } ∧
    exec (.inst s.params.tags.vrc6) s = .next { s with
      voice := { s.voice with ih := some ⟨0x0F, 0x00⟩, instType := .vrc6 }, results := s.results ++ [.ok true] } ∧
    exec (.inst s.params.tags.n163) s = .next { s with
      voice := { s.voice with ih := some ⟨0x0F, 0x00⟩, instType := .n163 }, results := s.results ++ [.ok true] } ∧
    exec (.inst s.params.tags.s5b) s = .next { s with
      voice := { s.voice with ih := some ⟨0x0F, 0x40⟩, instType := .s5b }, results := s.results ++ [.ok true] }) ∧
  (∀ (t : BitVec 3) (s : State),
    t ≠ s.params.tags.t2A03 ∧ t ≠ s.params.tags.vrc6 ∧ t ≠ s.params.tags.n163 ∧ t ≠ s.params.tags.s5b →
    exec (.inst t) s = .next { s with results := s.results ++ [.ok false] }) ∧
  (State.reset.params.tags = ⟨0, 1, 2, 5, 6⟩ ∧ distinctTags State.reset.params.tags ∧
    ∀ (t : BitVec 3) (s : State), s.params.tags = State.reset.params.tags → t = 0 ∨ t = 3 ∨ t = 4 ∨ t = 7 →
      exec (.inst t) s = .next { s with results := s.results ++ [.ok false] })

/-- A failed `INST` leaves every register and flag unchanged, delivers failure, and the voice accepts every later command as
if it had not been issued: later runs of commands leave the same voice and add the same writes and results
(60_exceptions.md R191; that failure keeps handler and tag is decision D14, log 15; the numbers of the four supported types
are parameters, 93_implementation_defined.md U10, log 29). -/
def Obligations.FailedInstLeavesNothingBehind : Prop :=
  ∀ (t : BitVec 3) (s : State),
    t ≠ s.params.tags.t2A03 ∧ t ≠ s.params.tags.vrc6 ∧ t ≠ s.params.tags.n163 ∧ t ≠ s.params.tags.s5b →
    exec (.inst t) s = .next { s with results := s.results ++ [.ok false] } ∧
    ∀ (is : List Instr) (u : State), execAll is s = .next u →
      ∃ u' rs, execAll (.inst t :: is) s = .next u' ∧ u'.voice = u.voice ∧ u'.trace = u.trace ∧
        u.results = s.results ++ rs ∧ u'.results = s.results ++ .ok false :: rs

/-- `SEQDUTY` stores the converted duty, and nothing else; the conversion by type: VRC6 by the table on the three low bits,
S5B always 0x02, every other type unchanged; and it is idempotent for every type but VRC6 (42_instrument_and_duty.md,
ConvertDuty and SEQDUTY; decisions D15 and D16, log 7 and 16; the table is free). -/
def Obligations.SeqdutyAndConversionResults : Prop :=
  (∀ (d : Byte) (s : State), exec (.seqduty d) s = .next { s with
    voice := { s.voice with dutyPeriod := convertDuty s.voice.instType d } }) ∧
  (∀ d : Byte,
    convertDuty .vrc6 d = Config.vrc6DutyTable (d.extractLsb' 0 3) ∧ convertDuty .n163 d = d ∧
    convertDuty .s5b d = 0x02 ∧ convertDuty .none d = d ∧ convertDuty .t2A03 d = d) ∧
  (∀ (t : InstType) (d : Byte), t ≠ .vrc6 → convertDuty t (convertDuty t d) = convertDuty t d)

/-- `CVD` delivers the converted duty and changes nothing else; its word by mask and match (42_instrument_and_duty.md R130). -/
def Obligations.CvdResult : Prop :=
  (∀ (sel : Selectors) (w : Word) (ws : List Word), w &&& 0xFFFFFF00#32 = 0x0C000000#32 →
    decode sel (w :: ws) = .ok (.cvd (w.extractLsb' 0 8), ws)) ∧
  ∀ (d : Byte) (s : State), exec (.cvd d) s = .next { s with
    results := s.results ++ [.duty (convertDuty s.voice.instType d)] }

/-! ## The register write sequencer -/

/-- `TICK P,V`, whole: latched period and volume; gate off, the enable mask and the silence byte, the sentinel, no reset
pending; gate on, the enable mask, the control byte, `BYTE_A(P)`, then the period-low/length byte if and only if the compared
byte changed or a reset is pending, the new `lastPeriod`, no reset pending; its word by mask and match
(43_tick_sequencer.md R140; the latch of the operands is decision D8, log 13, the gated-on `lastPeriod` decision D9, log 14).
-/
def Obligations.TickResult : Prop :=
  (∀ (sel : Selectors) (w : Word) (ws : List Word), w &&& 0xFFFF8000#32 = 0x09000000#32 →
    decode sel (w :: ws) = .ok (.tick (w.extractLsb' 4 11) (w.extractLsb' 0 4), ws)) ∧
  ∀ (P : BitVec 11) (V : BitVec 4) (s : State), exec (.tick P V) s = .next (
    if s.voice.gate = false then
      { s with
        voice := { s.voice with period := P, volume := V, lastPeriod := 0xFFFF, resetEnvelope := false }
        trace := s.trace ++ [(0x5015, 0x03), (addrCtrl s.params, 0x30)] }
    else
      { s with
        voice := { s.voice with period := P, volume := V, lastPeriod := P.setWidth 16, resetEnvelope := false }
        trace := s.trace ++
          [(0x5015#16, 0x03#8),
           (addrCtrl s.params,
             ((s.voice.dutyPeriod.extractLsb' 0 2).setWidth 8 <<< 6) ||| ((if s.voice.envelopeLoop then 1#8 else 0#8) <<< 5)
               ||| ((if s.voice.hardwareEnvelope then 0#8 else 1#8) <<< 4) ||| V.setWidth 8),
           (addrPerhi s.params, byteA s.params.periodSplit P)] ++
          (if byteB s.params.periodSplit P ≠ cmpByte s.params.periodSplit s.voice.lastPeriod ∨
              s.voice.resetEnvelope = true then
            [(addrPerlo s.params, byteB s.params.periodSplit P ||| (s.voice.lengthCounter.setWidth 8 <<< 3))]
          else []) })

/-- The sink addresses and the three byte functions of the period. `ENABLE` is 0x5015; the other three are the parameters of
a voice at its index, whatever they are; their defaults, which the machine has after power-on, are the numbers of the table,
all seven distinct (20_memory.md, address map and byte order; the defaults are general knowledge of the spec, D11, log 9;
`SWAPPED` is its decision D10, log 10). -/
def Obligations.AddressesAndPeriodBytes : Prop :=
  (addrEnable = 0x5015 ∧ ∀ params : Params,
    (params.ch = 0 → addrCtrl params = params.addrs.voice0.ctrl ∧ addrPerhi params = params.addrs.voice0.perhi ∧
      addrPerlo params = params.addrs.voice0.perlo) ∧
    (params.ch = 1 → addrCtrl params = params.addrs.voice1.ctrl ∧ addrPerhi params = params.addrs.voice1.perhi ∧
      addrPerlo params = params.addrs.voice1.perlo)) ∧
  (State.reset.params.addrs = ⟨⟨0x5000, 0x5002, 0x5003⟩, ⟨0x5004, 0x5006, 0x5007⟩⟩ ∧
    (familyAddrs State.reset.params.addrs).Nodup) ∧
  (∀ P : BitVec 11,
    (byteA .asWritten P).toNat = P.toNat / 256 ∧ (byteB .asWritten P).toNat = P.toNat % 256 ∧
    (byteA .swapped P).toNat = P.toNat % 256 ∧ (byteB .swapped P).toNat = P.toNat / 256) ∧
  (∀ L : BitVec 16, (cmpByte .asWritten L).toNat = L.toNat % 256 ∧ (cmpByte .swapped L).toNat = L.toNat / 256)

/-- The eight micro-steps of FT, run one after another, give the state the atomic `TICK` gives (10_state.md R25,
decision D24, log 22). -/
def Obligations.MicroStepsMakeTheAtomicTick : Prop :=
  ∀ (P : BitVec 11) (V : BitVec 4) (s : State), exec (.tick P V) s = .next (tickByMicroSteps P V s)

/-- The first write of every `TICK` is the enable mask 0x03 at 0x5015, gate on or off, for both voices, whatever the state;
the write to `CTRL` follows it, and, the addresses of the voice being distinct (93_implementation_defined.md U7), the
burst holds no other write to 0x5015 (43_tick_sequencer.md R143). -/
def Obligations.EveryTickWritesTheEnableMaskFirst : Prop :=
  ∀ (P : BitVec 11) (V : BitVec 4) (s : State), ∃ t c rest, exec (.tick P V) s = .next t ∧
    t.trace = s.trace ++ (0x5015, 0x03) :: (addrCtrl s.params, c) :: rest ∧
    (distinctAddrs s.params → ∀ w ∈ (addrCtrl s.params, c) :: rest, w.1 ≠ 0x5015)

/-- A gated-off `TICK`: the burst is exactly the enable mask and the silence byte, the period registers of the sink keep
their image (the addresses of the voice being distinct), `lastPeriod` becomes the sentinel, a pending reset is dropped, `P`
and `V` are latched and do nothing else (43_tick_sequencer.md R145; the latch of the operands is decision D8, log 13). -/
def Obligations.GatedOffTickIsSilentAndDropsTheReset : Prop :=
  ∀ (P : BitVec 11) (V : BitVec 4) (s : State), s.voice.gate = false → ∃ t, exec (.tick P V) s = .next t ∧
    t.trace = s.trace ++ [(0x5015, 0x03), (addrCtrl s.params, 0x30)] ∧
    (distinctAddrs s.params →
      t.sinkByte (addrPerhi s.params) = s.sinkByte (addrPerhi s.params) ∧
      t.sinkByte (addrPerlo s.params) = s.sinkByte (addrPerlo s.params)) ∧
    t.voice = { s.voice with period := P, volume := V, lastPeriod := 0xFFFF, resetEnvelope := false }

/-- The control byte of a gated-on tick, by its fields and by its table, written on every such tick whatever was written
before (43_tick_sequencer.md, step 5; the table is derived there, the field layout is 10_state.md's). -/
def Obligations.GatedOnTickWritesTheControlByte : Prop :=
  ∀ (P : BitVec 11) (V : BitVec 4) (s : State), s.voice.gate = true →
    ∃ t c, exec (.tick P V) s = .next t ∧ t.trace[s.trace.length + 1]? = some (addrCtrl s.params, c) ∧
      c.extractLsb' 6 2 = s.voice.dutyPeriod.extractLsb' 0 2 ∧ c.getLsbD 5 = s.voice.envelopeLoop ∧
      c.getLsbD 4 = !s.voice.hardwareEnvelope ∧ c.extractLsb' 0 4 = V ∧
      c = (0x40#8 * (s.voice.dutyPeriod.extractLsb' 0 2).setWidth 8 +
        (match s.voice.envelopeLoop, s.voice.hardwareEnvelope with
          | true, false => 0x30#8
          | true, true => 0x20#8
          | false, false => 0x10#8
          | false, true => 0x00#8)) ||| V.setWidth 8

/-- Step 7: a gated-on tick writes `PERLO` if and only if `BYTE_B(P)` differs from the compared byte of `lastPeriod` or a
reset is pending, with `BYTE_B(P)` ORed with the shifted length; else the burst has three writes, none of them to `PERLO` where
the addresses of the voice are distinct. With length 0 the byte is `BYTE_B(P)` alone, and after a gated-off tick or a reset the
compared byte is 0xFF (43_tick_sequencer.md R148; that `RST` leaves the sentinel is decision D18, log 11). -/
def Obligations.PerloIsWrittenExactlyWhenDue : Prop :=
  (∀ (P : BitVec 11) (V : BitVec 4) (s : State), s.voice.gate = true →
    ∃ t a b c, exec (.tick P V) s = .next t ∧
      t.trace = s.trace ++ [a, b, c] ++
        (if byteB s.params.periodSplit P ≠ cmpByte s.params.periodSplit s.voice.lastPeriod ∨
            s.voice.resetEnvelope = true then
          [(addrPerlo s.params, byteB s.params.periodSplit P ||| (s.voice.lengthCounter.setWidth 8 <<< 3))]
        else []) ∧
      (distinctAddrs s.params →
        a.1 ≠ addrPerlo s.params ∧ b.1 ≠ addrPerlo s.params ∧ c.1 ≠ addrPerlo s.params)) ∧
  (∀ x : Byte, x ||| ((0 : BitVec 5).setWidth 8 <<< 3) = x) ∧
  (∀ (P : BitVec 11) (V : BitVec 4) (s t : State), s.voice.gate = false → exec (.tick P V) s = .next t →
    cmpByte s.params.periodSplit t.voice.lastPeriod = 0xFF) ∧
  (∀ s t : State, exec .rst s = .next t → cmpByte s.params.periodSplit t.voice.lastPeriod = 0xFF)

/-- The fields of the period-low/length byte: under `AS_WRITTEN` the two five-bit fields are ORed and the three low bits are
the period's; under `SWAPPED` the three period bits and the five length bits do not overlap (10_state.md PERLO;
43_tick_sequencer.md `SWAPPED`, decision D10, log 10). -/
def Obligations.PeriodLowByteFields : Prop :=
  ∀ (P : BitVec 11) (l : BitVec 5),
    (perloByte .asWritten P l).extractLsb' 3 5 = P.extractLsb' 3 5 ||| l ∧
    (perloByte .asWritten P l).extractLsb' 0 3 = P.extractLsb' 0 3 ∧
    (perloByte .swapped P l).extractLsb' 3 5 = l ∧
    (perloByte .swapped P l).extractLsb' 0 3 = P.extractLsb' 8 3

/-- From gate off to gate on: after a gated-off tick, a note in any mode opens the gate, and the next tick writes `PERLO`
always under `SWAPPED`, and under `AS_WRITTEN` unless the period's low byte is 0xFF and no reset is pending, which is so for
eight periods (43_tick_sequencer.md, the sentinel, derived there; 90_conflicts.md C1; the gate by decision D6, log 12). That a
write at the address of `PERLO` is one to `PERLO` takes distinct addresses (93_implementation_defined.md U7, log 9). -/
def Obligations.OffToOnTickRewritesThePeriod : Prop :=
  (∀ (P P' : BitVec 11) (V V' : BitVec 4) (n : BitVec 4) (o : BitVec 3) (s : State), s.voice.gate = false →
    ∃ t u, execAll [.tick P V, .row .pitched n o []] s = .next t ∧ t.voice.gate = true ∧ t.voice.lastPeriod = 0xFFFF ∧
      exec (.tick P' V') t = .next u ∧
      (distinctAddrs s.params →
        ((∃ b, (addrPerlo s.params, b) ∈ u.trace.drop t.trace.length) ↔
          (s.params.periodSplit = .swapped ∨ P'.extractLsb' 0 8 ≠ 0xFF ∨ t.voice.resetEnvelope = true)))) ∧
  (∀ P : BitVec 11, P.extractLsb' 0 8 = 0xFF#8 ↔
    P ∈ [0x0FF#11, 0x1FF#11, 0x2FF#11, 0x3FF#11, 0x4FF#11, 0x5FF#11, 0x6FF#11, 0x7FF#11])

/-- Write suppression: after a gated-on tick, and any run of commands with no `TICK` and no `RST` after which no reset is
pending, a gated-on tick with the same `BYTE_B` emits the short burst and leaves the image of `PERLO`. And the commands the
rule names leave its premise alone: under any run of them `lastPeriod` stays and no reset comes, and a pitched row whose
columns set no mode requests one outside loop mode only (43_tick_sequencer.md, the write-suppression invariant, derived there;
the new `lastPeriod` of the first tick is decision D9, log 14). -/
def Obligations.UnchangedPeriodByteIsNotRewritten : Prop :=
  (∀ (P₁ P₂ : BitVec 11) (V₁ V₂ : BitVec 4) (is : List Instr) (s s₁ s₂ : State),
    s.voice.gate = true → exec (.tick P₁ V₁) s = .next s₁ → (∀ i ∈ is, (∀ P V, i ≠ .tick P V) ∧ i ≠ .rst) →
    execAll is s₁ = .next s₂ → s₂.voice.gate = true → s₂.voice.resetEnvelope = false →
    byteB s.params.periodSplit P₂ = byteB s.params.periodSplit P₁ →
    ∃ t c a, exec (.tick P₂ V₂) s₂ = .next t ∧
      t.trace = s₂.trace ++ [(0x5015, 0x03), (addrCtrl s.params, c), (addrPerhi s.params, a)] ∧
      (distinctAddrs s.params → t.sinkByte (addrPerlo s.params) = s₂.sinkByte (addrPerlo s.params))) ∧
  (∀ (is : List Instr) (s t : State), (∀ i ∈ is, leavesDiffing s.params.selectors i = true) → execAll is s = .next t →
    t.voice.lastPeriod = s.voice.lastPeriod ∧ t.voice.resetEnvelope = s.voice.resetEnvelope) ∧
  (∀ (n : BitVec 4) (o : BitVec 3) (fx : List Fx) (s t : State),
    (∀ c ∈ fx, columnSetsMode s.params.selectors c = false) →
    exec (.row .pitched n o fx) s = .next t → t.voice.lastPeriod = s.voice.lastPeriod ∧
      (t.voice.resetEnvelope = true ↔ s.voice.mode ≠ 0 ∨ s.voice.resetEnvelope = true))

/-- `CLR` does not reset the diffing: after it `PERLO` holds 0x00 and keeps it under every run of commands without a full
tick, in particular a gated-on tick with the same compared byte and no pending reset, which emits three writes; a full tick
writes it again (70_reset_and_hazards.md, `CLR` hazard; that `CLR` leaves the voice alone is decision D19, log 17; the addresses
of the voice distinct, 93_implementation_defined.md U7). -/
def Obligations.ClrLeavesPerloZeroUntilAFullTick : Prop :=
  ∀ s : State, distinctAddrs s.params → ∃ t, exec .clr s = .next t ∧ t.sinkByte (addrPerlo s.params) = some 0x00 ∧
    (∀ (is : List Instr) (u : State), noFullTick is t = true → execAll is t = .next u →
      u.sinkByte (addrPerlo s.params) = some 0x00) ∧
    (∀ (P : BitVec 11) (V : BitVec 4), s.voice.gate = true → s.voice.resetEnvelope = false →
      byteB s.params.periodSplit P = cmpByte s.params.periodSplit s.voice.lastPeriod →
      noFullTick [.tick P V] t = true ∧ ∃ u, exec (.tick P V) t = .next u ∧ u.trace.length = t.trace.length + 3) ∧
    (∀ (is : List Instr) (P : BitVec 11) (V : BitVec 4) (u : State), execAll is t = .next u → isFullTick (.tick P V) u = true →
      ∃ w, exec (.tick P V) u = .next w ∧
        w.sinkByte (addrPerlo s.params) = some (perloByte s.params.periodSplit P u.voice.lengthCounter))

/-! ## System commands -/

/-- `CLR` writes zero to the control, period-high and period-low registers of its voice, in that order, and changes nothing
else (44_system_commands.md, CLR; order and state by decision D19, log 17). -/
def Obligations.ClrResult : Prop :=
  ∀ s : State, exec .clr s = .next { s with
    trace := s.trace ++ [(addrCtrl s.params, 0x00), (addrPerhi s.params, 0x00), (addrPerlo s.params, 0x00)] }

/-- `EFFSTR` delivers, by mode, the empty text, " EE1", " ELL EE2" or " ELL EE3", LL being the two upper-case hexadecimal
digits of `lengthCounter`, as ASCII bytes, and changes nothing else (44_system_commands.md, outputs of EFFSTR, derived
there; the meaning of the formats is general knowledge of the spec, D26, log 21). -/
def Obligations.EffstrResult : Prop :=
  ∀ s : State,
    let digit : Nat → Byte := fun n =>
      [0x30#8, 0x31#8, 0x32#8, 0x33#8, 0x34#8, 0x35#8, 0x36#8, 0x37#8, 0x38#8, 0x39#8, 0x41#8, 0x42#8, 0x43#8, 0x44#8,
        0x45#8, 0x46#8].getD n 0
    let length : List Byte :=
      [0x20, 0x45, digit (s.voice.lengthCounter.toNat / 16), digit (s.voice.lengthCounter.toNat % 16)]
    exec .effstr s = .next { s with
      results := s.results ++ [.text (
        match s.voice.envelopeLoop, s.voice.hardwareEnvelope with
        | true, false => []
        | true, true => [0x20, 0x45, 0x45, 0x31]
        | false, false => length ++ [0x20, 0x45, 0x45, 0x32]
        | false, true => length ++ [0x20, 0x45, 0x45, 0x33])] }

/-- The text that `EFFSTR` delivers spells effect commands of the command port, and these recreate the mode: run on any
machine they leave the mode flags of the voice that delivered the text, and its length when it is not looping. In the
default mode the text is empty, so it recreates that mode where it already holds (44_system_commands.md, outputs of
EFFSTR, derived there; the formats are general knowledge of the spec, D26, log 21). -/
def Obligations.EffstrTokensRecreateTheMode : Prop :=
  ∀ s : State, ∃ t text is, exec .effstr s = .next t ∧ t.results = s.results ++ [.text text] ∧
    spelledEffects s.params.selectors text = some is ∧
    is = (if s.voice.envelopeLoop = false then [Instr.volfxLen s.voice.lengthCounter] else []) ++
      (if s.voice.mode ≠ 0 then [Instr.volfxMode s.voice.mode] else []) ∧
    ∀ u : State, ∃ u', execAll is u = .next u' ∧
      (s.voice.mode ≠ 0 ∨ u.voice.mode = 0 →
        u'.voice.envelopeLoop = s.voice.envelopeLoop ∧ u'.voice.hardwareEnvelope = s.voice.hardwareEnvelope) ∧
      (s.voice.envelopeLoop = false → u'.voice.lengthCounter = s.voice.lengthCounter)

/-! ## Frames -/

/-- No note command writes the sink, and the only commands that emit a write are `TICK` and `CLR`: under every other command
the write trace and every byte of the sink image are unchanged (40_note_commands.md R96; that `CUT` writes no byte is decision
D21, log 17). -/
def Obligations.OnlyTickAndClrWriteTheSink : Prop :=
  ∀ (i : Instr) (s t : State), exec i s = .next t → (∀ P V, i ≠ .tick P V) → i ≠ .clr →
    t.trace = s.trace ∧ ∀ a : Addr, t.sinkByte a = s.sinkByte a

/-- The frame of the two storing commands: `TICK` leaves every register but `period`, `volume`, `lastPeriod` and
`resetEnvelope`, `CLR` every register; neither returns a result; and every byte of the sink image outside the addresses the
form stores to reads as before (43_tick_sequencer.md, TICK; 44_system_commands.md, CLR by decision D19, log 17). -/
def Obligations.StoringCommandsFrame : Prop :=
  (∀ (P : BitVec 11) (V : BitVec 4) (s t : State), exec (.tick P V) s = .next t →
    t.params = s.params ∧ t.port = s.port ∧ t.results = s.results ∧
    t.voice.dutyPeriod = s.voice.dutyPeriod ∧ t.voice.dutyDefault = s.voice.dutyDefault ∧
    t.voice.lengthCounter = s.voice.lengthCounter ∧ t.voice.volCeil = s.voice.volCeil ∧
    t.voice.instType = s.voice.instType ∧ t.voice.ih = s.voice.ih ∧ t.voice.gate = s.voice.gate ∧
    t.voice.hardwareEnvelope = s.voice.hardwareEnvelope ∧ t.voice.envelopeLoop = s.voice.envelopeLoop ∧
    t.voice.releasing = s.voice.releasing ∧
    ∀ a : Addr, a ≠ addrEnable → a ≠ addrCtrl s.params →
      ¬ (s.voice.gate = true ∧ a = addrPerhi s.params) →
      ¬ (s.voice.gate = true ∧ s.voice.perloDue s.params.periodSplit P = true ∧ a = addrPerlo s.params) →
      t.sinkByte a = s.sinkByte a) ∧
  (∀ s t : State, exec .clr s = .next t →
    t.params = s.params ∧ t.port = s.port ∧ t.results = s.results ∧ t.voice = s.voice ∧
    ∀ a : Addr, a ≠ addrCtrl s.params → a ≠ addrPerhi s.params → a ≠ addrPerlo s.params →
      t.sinkByte a = s.sinkByte a)

/-- Every register and flag changes only under the commands that the state table names as its writers: whoever is not listed
leaves it (10_state.md, the table of section 1; `ROW` writes what its columns and its note write). -/
def Obligations.RegistersChangeOnlyUnderTheirWriters : Prop :=
  ∀ (i : Instr) (s t : State), exec i s = .next t →
    (t.voice.period = s.voice.period ∨
      (match i with | .note _ _ | .row .pitched _ _ _ | .tick _ _ | .rst => True | _ => False)) ∧
    (t.voice.volume = s.voice.volume ∨ (match i with | .tick _ _ | .rst => True | _ => False)) ∧
    (t.voice.dutyPeriod = s.voice.dutyPeriod ∨
      (match i with
        | .dutyfx _ | .note _ _ | .row .pitched _ _ _ | .seqduty _ | .rst => True
        | .row _ _ _ fx => ∃ c ∈ fx, c.e = s.params.selectors.efDuty
        | _ => False)) ∧
    (t.voice.dutyDefault = s.voice.dutyDefault ∨
      (match i with | .dutyfx _ | .rst => True | .row _ _ _ fx => ∃ c ∈ fx, c.e = s.params.selectors.efDuty | _ => False)) ∧
    (t.voice.lastPeriod = s.voice.lastPeriod ∨ (match i with | .tick _ _ | .rst => True | _ => False)) ∧
    (t.voice.lengthCounter = s.voice.lengthCounter ∨
      (match i with
        | .volfxLen _ | .rst => True
        | .row _ _ _ fx => ∃ c ∈ fx, c.e = s.params.selectors.efVolume ∧ c.p < 0x20#8
        | _ => False)) ∧
    (t.voice.volCeil = s.voice.volCeil ∨
      (match i with | .note _ _ | .row .pitched _ _ _ | .rst => True | _ => False)) ∧
    (t.voice.instType = s.voice.instType ∨ (match i with | .inst _ | .rst => True | _ => False)) ∧
    (t.voice.ih = s.voice.ih ∨ (match i with | .inst _ | .rst => True | _ => False)) ∧
    (t.voice.gate = s.voice.gate ∨
      (match i with | .row .pitched _ _ _ | .row .noteOff _ _ _ | .cut | .rst => True | _ => False)) ∧
    (t.voice.hardwareEnvelope = s.voice.hardwareEnvelope ∨
      (match i with
        | .volfxMode _ | .rst => True
        | .row _ _ _ fx => ∃ c ∈ fx, c.e = s.params.selectors.efVolume ∧ 0xE0#8 ≤ c.p ∧ c.p < 0xE4#8
        | _ => False)) ∧
    (t.voice.envelopeLoop = s.voice.envelopeLoop ∨
      (match i with
        | .volfxLen _ | .volfxMode _ | .rst => True
        | .row _ _ _ fx => ∃ c ∈ fx, columnSetsMode s.params.selectors c = true
        | _ => False)) ∧
    (t.voice.resetEnvelope = s.voice.resetEnvelope ∨
      (match i with
        | .volfxLen _ | .volfxMode _ | .tick _ _ | .row .pitched _ _ _ => True
        | .row _ _ _ fx => ∃ c ∈ fx, columnSetsMode s.params.selectors c = true
        | _ => False)) ∧
    (t.voice.releasing = s.voice.releasing ∨
      (match i with
        | .rel | .row .pitched _ _ _ | .row .noteOff _ _ _ | .row .release _ _ _ | .rst => True
        | _ => False))

/-- The parameters of a voice are fixed: no command and no step changes the index, the split, the addresses, the
selectors or the type numbers; and a command touches no word
of the port (10_state.md, configuration that is not state; that State carries them is the model's, log 1 and 5). -/
def Obligations.ParametersAreFixedAndCommandsLeaveThePort : Prop :=
  (∀ (i : Instr) (s t : State), exec i s = .next t → t.params = s.params ∧ t.port = s.port) ∧
  (∀ s t : State, step s = .next t → t.params = s.params ∧ ∃ ws, s.port = ws ++ t.port)

/-- The status port: `INST` returns one bit, `CVD` one byte, `EFFSTR` one text, and every other command nothing
(30_encoding.md, the status port, decision D2; that the results are kept in order is the model's, log 4). -/
def Obligations.OnlyThreeCommandsReturnResults : Prop :=
  ∀ (i : Instr) (s t : State), exec i s = .next t →
    match i with
    | .inst _ => ∃ b, t.results = s.results ++ [.ok b]
    | .cvd _ => ∃ d, t.results = s.results ++ [.duty d]
    | .effstr => ∃ x, t.results = s.results ++ [.text x]
    | _ => t.results = s.results

/-! ## The envelope modes -/

/-- The complete transition table of the mode code: note-on keeps it and requests a reset unless it is 0; a length load sets
its loop bit and requests one; a mode switch makes it the parameter and requests one unless it was 1; `RST` makes it 0; every
other event keeps it and requests nothing (45_envelope_state_machine.md, the complete transition table, derived there). -/
def Obligations.ModeTransitionTable : Prop :=
  ∀ s : State,
    (∀ n o, ∃ t, exec (.row .pitched n o []) s = .next t ∧ t.voice.mode = s.voice.mode ∧
      (t.voice.resetEnvelope = true ↔ s.voice.mode ≠ 0 ∨ s.voice.resetEnvelope = true)) ∧
    (∀ p, ∃ t, exec (.volfxLen p) s = .next t ∧ t.voice.resetEnvelope = true ∧
      t.voice.mode = (if s.voice.mode = 0 ∨ s.voice.mode = 2 then 2 else 3)) ∧
    (∀ p, ∃ t, exec (.volfxMode p) s = .next t ∧ t.voice.mode = p ∧
      (t.voice.resetEnvelope = true ↔ s.voice.mode ≠ 1 ∨ s.voice.resetEnvelope = true)) ∧
    (∃ t, exec .rst s = .next t ∧ t.voice.mode = 0 ∧ t.voice.resetEnvelope = s.voice.resetEnvelope) ∧
    (∀ (i : Instr) (t : State), exec i s = .next t →
      (match i with
        | .rst | .volfxLen _ | .volfxMode _ => False
        | .row k _ _ fx => k ≠ .pitched ∧ ∀ c ∈ fx, columnSetsMode s.params.selectors c = false
        | _ => True) →
      t.voice.mode = s.voice.mode ∧ (t.voice.resetEnvelope = true → s.voice.resetEnvelope = true))

/-- The mode is `Loop` with length 1 after power-on and after every `RST`; no `TICK`, note command, duty command or instrument
command changes the mode (what a row changes is what its own effect columns change) (45_envelope_state_machine.md R176). -/
def Obligations.ModeStartsInLoopAndOnlyEffectsChangeIt : Prop :=
  (State.reset.voice.envelopeState = .loop ∧ State.reset.voice.lengthCounter = 1) ∧
  (∀ s t : State, exec .rst s = .next t → t.voice.envelopeState = .loop ∧ t.voice.lengthCounter = 1) ∧
  (∀ (i : Instr) (s t : State), exec i s = .next t →
    match i with
    | .rst | .volfxLen _ | .volfxMode _ => True
    | .row _ _ _ fx => t.voice.mode = (doColumns s.params.selectors fx s.voice).mode ∧
        ((∀ c ∈ fx, c.e ≠ s.params.selectors.efVolume) → t.voice.mode = s.voice.mode)
    | _ => t.voice.mode = s.voice.mode)

/-- The life of a pending reset: it goes from 0 to 1 only by a length load, a mode switch from a mode other than 1, a row with
such a column, or a pitched row that ends outside loop mode; it goes from 1 to 0 only by a `TICK`; and after every `TICK` it
is 0 (45_envelope_state_machine.md, life of a pending reset, derived there; 43_tick_sequencer.md step 8). -/
def Obligations.LifeOfAPendingReset : Prop :=
  ∀ (i : Instr) (s t : State), exec i s = .next t →
    (s.voice.resetEnvelope = false → t.voice.resetEnvelope = true →
      match i with
      | .volfxLen _ => True
      | .volfxMode _ => s.voice.mode ≠ 1
      | .row k _ _ fx => (k = .pitched ∧ t.voice.mode ≠ 0) ∨ ∃ c ∈ fx, columnSetsMode s.params.selectors c = true
      | _ => False) ∧
    (s.voice.resetEnvelope = true → t.voice.resetEnvelope = false → ∃ P V, i = .tick P V) ∧
    (∀ P V, i = .tick P V → t.voice.resetEnvelope = false)

/-! ## The write trace and what cannot be observed -/

/-- The write trace of a run is exactly the concatenation of its commands' bursts, in command order, after the writes already
sent; the burst of a `TICK` and of a `CLR` is the one their rules list, in that order, and every other burst is empty
(20_memory.md R48; the lists are 43_tick_sequencer.md R140, 44_system_commands.md R162 and 40_note_commands.md R96; the order
of `CLR` and the empty burst of `CUT` are decisions D19 and D21, log 17). -/
def Obligations.TraceIsTheConcatenationOfTheBursts : Prop :=
  (∀ (is : List Instr) (s : State), ∃ t, execAll is s = .next t ∧ t.trace = s.trace ++ (bursts is s).flatten) ∧
  (∀ (i : Instr) (s : State), burst i s =
    match i with
    | .tick P V => tickBurst s.params P V s.voice
    | .clr => [(addrCtrl s.params, 0x00), (addrPerhi s.params, 0x00), (addrPerlo s.params, 0x00)]
    | _ => [])

/-- The block never reads the sink: with any other write trace (and any other results) already there, a run of commands ends
with the same voice, appends the same writes and returns the same results (20_memory.md R41). -/
def Obligations.RunsDoNotDependOnWhatTheSinkReceived : Prop :=
  ∀ (is : List Instr) (s t : State) (tr : List SinkWrite) (rs : List Result), execAll is s = .next t →
    ∃ b r, t.trace = s.trace ++ b ∧ t.results = s.results ++ r ∧
      execAll is { s with trace := tr, results := rs } = .next { t with trace := tr ++ b, results := rs ++ r }

/-- `period`, `volume`, `volCeil`, `ih` and `releasing` reach no output: two machines that differ in these alone append the
same writes and return the same results under every run of commands (10_state.md, section 2 "No rule of the block reads it";
for `releasing` decision D7, log 12). -/
def Obligations.UnreadRegistersReachNoOutput : Prop :=
  ∀ (is : List Instr) (s u t : State), s.params = u.params → s.trace = u.trace → s.results = u.results →
    s.voice.masked = u.voice.masked → execAll is s = .next t →
    ∃ t', execAll is u = .next t' ∧ t'.trace = t.trace ∧ t'.results = t.results ∧ t'.voice.masked = t.voice.masked

/-- The sink image: a write gives its byte at its address and leaves every other address; nothing is written after power-on;
and the image of every machine has the canonical form (20_memory.md, the sink image, derived there; log 3). -/
def Obligations.SinkImageIsTheLastByteWritten : Prop :=
  (∀ (s : State) (a b : Addr) (v : Byte), (s.regWrite a v).sinkByte b = if b = a then some v else s.sinkByte b) ∧
  (∀ a : Addr, State.reset.sinkByte a = none) ∧
  (∀ s : State, s.image.wf = true)

/-! ## Invariants -/

/-- Every step keeps the invariant: the addresses, the type numbers and the selectors of the voice distinct, `lastPeriod` an
11-bit period or the sentinel, handler and tag in agreement, the full volume ceiling, every write at one of the voice's four
addresses with the enable mask at 0x5015 and a three-bit byte at `PERHI` under `AS_WRITTEN`, every text of 0, 4 or 8
characters (10_state.md, 20_memory.md address map; the distinct addresses are 93_implementation_defined.md U7, log 9, the
distinct numbers decision D13, log 29, the agreement of tag and handler decision D14, log 15, the ceiling decision D18, log
11). -/
def Obligations.EveryStepKeepsTheInvariant : Prop :=
  ∀ s t : State, s.inv → step s = .next t → t.inv

/-- The machine after power-on meets the invariant. -/
def Obligations.ResetMeetsTheInvariant : Prop := State.reset.inv

/-! ## Two voices over one sink (log 20) -/

/-- A command of one voice leaves the other voice's state as it is, and adds to the sink exactly what it adds to its own
trace (60_exceptions.md, several voices, decision D11). -/
def Obligations.OneVoiceLeavesTheOtherAlone : Prop :=
  ∀ (c d : Channel) (p q : Pair), p.stepVoice c = .next q → d ≠ c →
    q.get d = p.get d ∧ step (p.get c) = .next (q.get c) ∧
    ∃ b, q.sink = p.sink ++ b ∧ (q.get c).trace = (p.get c).trace ++ b

/-- Under every schedule of the owner the sink receives whole bursts, one per turn and in the order of the turns, and nothing
else: each voice runs as it would alone, the bursts of its turns are those of its own steps, and together they are what its
trace gained. Where the two voices share `ENABLE` alone, every write stays at an address of the pair, to its own addresses
each voice has sent exactly what the sink received there, and every write to `ENABLE` is 0x03, so that its image does not
depend on the order (20_memory.md, two voices, decision D28; 60_exceptions.md, several voices; log 20). -/
def Obligations.SharedSinkIsAnInterleavingUnderEverySchedule : Prop :=
  ∀ (cs : List Channel) (p q : Pair), Pair.run cs p = .next q →
    (∃ bs : List (List SinkWrite), bs.length = cs.length ∧ q.sink = p.sink ++ bs.flatten ∧
      ∀ c : Channel, Host.Core.run Sys2Proof.core (cs.count c) (p.get c) = .next (q.get c) ∧
        turnsOf c cs bs = stepBursts (cs.count c) (p.get c) ∧
        (q.get c).trace = (p.get c).trace ++ (turnsOf c cs bs).flatten) ∧
    (p.inv → (∀ w ∈ p.sink, w.1 = addrEnable → w.2 = 0x03) →
      q.inv ∧ ∀ w ∈ q.sink, w.1 = addrEnable → w.2 = 0x03)

/-! ## The addresses -/

/-- A voice writes its four addresses and no other, whatever its address parameters are: every write of every command goes to
one of them, and each of them is written by some command (20_memory.md, address map; the addresses but 0x5015 are parameters,
D11, log 9). -/
def Obligations.EveryWriteGoesToOneOfTheFourAddresses : Prop :=
  (∀ (i : Instr) (s : State), ∀ w ∈ burst i s, w.1 ∈ sinkAddrs s.params) ∧
  (∀ (params : Params) (a : Addr), a ∈ sinkAddrs params ↔
    ∃ (i : Instr) (s : State) (v : Byte), s.params = params ∧ (a, v) ∈ burst i s)
end

