-- ==== Sys2Proof/Laws/Decode.lean ====
section
/-! SUPPORT. The fields of an encoded word, and a word put together again from its fields: the two halves of "decode and
encode agree" for one word (30_encoding.md R60, R61, R70, R73). -/

namespace Sys2Proof

/-! ## Words and fields -/

/-- Two words that agree on two neighbouring fields agree on the field they make together. -/
theorem fields_join (x y : Word) (lo n m : Nat) (h₁ : x.extractLsb' lo n = y.extractLsb' lo n)
    (h₂ : x.extractLsb' (lo + n) m = y.extractLsb' (lo + n) m) :
    x.extractLsb' lo (n + m) = y.extractLsb' lo (n + m) := by
  apply BitVec.eq_of_getLsbD_eq
  intro i hi
  by_cases hn : i < n
  · simpa [hn, hi] using congrArg (fun z => z.getLsbD i) h₁
  · have hm : i - n < m := by omega
    have e : lo + n + (i - n) = lo + i := by omega
    simpa [hm, hi, e] using congrArg (fun z => z.getLsbD (i - n)) h₂

theorem word_eq_of_field (x y : Word) (h : x.extractLsb' 0 32 = y.extractLsb' 0 32) : x = y := by
  simpa using h

theorem zeroField_eq {w : Word} {lo n : Nat} (h : zeroField w lo n = true) : w.extractLsb' lo n = 0 := by
  simpa [zeroField] using h

/-! ## Opcodes and kinds -/

@[simp] theorem Op.ofByte_byte (op : Op) : Op.ofByte op.byte = some op := by cases op <;> rfl

/-- A byte that stands for an opcode is that opcode's byte. -/
theorem Op.byte_of_ofByte {b : Byte} {op : Op} (h : Op.ofByte b = some op) : b = op.byte := by
  unfold Op.ofByte at h
  split at h <;> simp at h <;> subst h <;> apply BitVec.eq_of_toNat_eq <;> simpa [Op.byte]

/-- A byte that stands for no opcode is one of 0x0D to 0xFF. -/
theorem Op.ofByte_eq_none (b : Byte) : Op.ofByte b = none ↔ 0x0D ≤ b.toNat := by
  revert b; decide

theorem Op.byte_injective {a b : Op} (h : a.byte = b.byte) : a = b := by
  have := congrArg Op.ofByte h
  simpa using this

@[simp] theorem RowKind.ofBits_bits (k : RowKind) : RowKind.ofBits k.bits = k := by cases k <;> rfl

@[simp] theorem RowKind.bits_ofBits (b : BitVec 2) : (RowKind.ofBits b).bits = b := by
  revert b; decide

/-! ## The fields of each format's word -/

@[simp] theorem opcodeOf_wordZ (op : Op) : opcodeOf (wordZ op) = op.byte := by cases op <;> rfl

@[simp] theorem zeroField_wordZ (op : Op) : zeroField (wordZ op) 0 24 = true := by cases op <;> rfl

@[simp] theorem opcodeOf_wordR (k : RowKind) (n : BitVec 4) (o x : BitVec 3) : opcodeOf (wordR k n o x) = Op.byte .row := by
  unfold opcodeOf wordR opWord
  ext i hi
  simp
  interval_cases i <;> simp [Op.byte]

@[simp] theorem wordR_kind (k : RowKind) (n : BitVec 4) (o x : BitVec 3) : (wordR k n o x).extractLsb' 22 2 = k.bits := by
  unfold wordR opWord
  ext i hi
  simp
  interval_cases i <;> simp [Op.byte]

@[simp] theorem wordR_note (k : RowKind) (n : BitVec 4) (o x : BitVec 3) : (wordR k n o x).extractLsb' 18 4 = n := by
  unfold wordR opWord
  ext i hi
  simp
  interval_cases i <;> simp [Op.byte]

@[simp] theorem wordR_octave (k : RowKind) (n : BitVec 4) (o x : BitVec 3) : (wordR k n o x).extractLsb' 15 3 = o := by
  unfold wordR opWord
  ext i hi
  simp
  interval_cases i <;> simp [Op.byte]

@[simp] theorem wordR_nfx (k : RowKind) (n : BitVec 4) (o x : BitVec 3) : (wordR k n o x).extractLsb' 12 3 = x := by
  unfold wordR opWord
  ext i hi
  simp
  interval_cases i <;> simp [Op.byte]

@[simp] theorem zeroField_wordR (k : RowKind) (n : BitVec 4) (o x : BitVec 3) : zeroField (wordR k n o x) 0 12 = true := by
  unfold zeroField wordR opWord
  rw [beq_iff_eq]
  ext i hi
  simp
  interval_cases i <;> simp [Op.byte]

@[simp] theorem opcodeOf_wordN (n : BitVec 4) (o : BitVec 3) : opcodeOf (wordN n o) = Op.byte .note := by
  unfold opcodeOf wordN opWord
  ext i hi
  simp
  interval_cases i <;> simp [Op.byte]

@[simp] theorem wordN_note (n : BitVec 4) (o : BitVec 3) : (wordN n o).extractLsb' 18 4 = n := by
  unfold wordN opWord
  ext i hi
  simp
  interval_cases i <;> simp [Op.byte]

@[simp] theorem wordN_octave (n : BitVec 4) (o : BitVec 3) : (wordN n o).extractLsb' 15 3 = o := by
  unfold wordN opWord
  ext i hi
  simp
  interval_cases i <;> simp [Op.byte]

@[simp] theorem zeroField_wordN_high (n : BitVec 4) (o : BitVec 3) : zeroField (wordN n o) 22 2 = true := by
  unfold zeroField wordN opWord
  rw [beq_iff_eq]
  ext i hi
  simp
  interval_cases i <;> simp [Op.byte]

@[simp] theorem zeroField_wordN_low (n : BitVec 4) (o : BitVec 3) : zeroField (wordN n o) 0 15 = true := by
  unfold zeroField wordN opWord
  rw [beq_iff_eq]
  ext i hi
  simp
  interval_cases i <;> simp [Op.byte]

@[simp] theorem opcodeOf_wordF (e p : Byte) : opcodeOf (wordF e p) = Op.byte .fx := by
  unfold opcodeOf wordF opWord
  ext i hi
  simp
  interval_cases i <;> simp [Op.byte]

@[simp] theorem wordF_selector (e p : Byte) : (wordF e p).extractLsb' 8 8 = e := by
  unfold wordF opWord
  ext i hi
  simp
  interval_cases i <;> simp [Op.byte]

@[simp] theorem wordF_param (e p : Byte) : (wordF e p).extractLsb' 0 8 = p := by
  unfold wordF opWord
  ext i hi
  simp
  interval_cases i <;> simp [Op.byte]

@[simp] theorem zeroField_wordF (e p : Byte) : zeroField (wordF e p) 16 8 = true := by
  unfold zeroField wordF opWord
  rw [beq_iff_eq]
  ext i hi
  simp
  interval_cases i <;> simp [Op.byte]

@[simp] theorem opcodeOf_wordT (P : BitVec 11) (V : BitVec 4) : opcodeOf (wordT P V) = Op.byte .tick := by
  unfold opcodeOf wordT opWord
  ext i hi
  simp
  interval_cases i <;> simp [Op.byte]

@[simp] theorem wordT_period (P : BitVec 11) (V : BitVec 4) : (wordT P V).extractLsb' 4 11 = P := by
  unfold wordT opWord
  ext i hi
  simp
  interval_cases i <;> simp [Op.byte]

@[simp] theorem wordT_volume (P : BitVec 11) (V : BitVec 4) : (wordT P V).extractLsb' 0 4 = V := by
  unfold wordT opWord
  ext i hi
  simp
  interval_cases i <;> simp [Op.byte]

@[simp] theorem zeroField_wordT (P : BitVec 11) (V : BitVec 4) : zeroField (wordT P V) 15 9 = true := by
  unfold zeroField wordT opWord
  rw [beq_iff_eq]
  ext i hi
  simp
  interval_cases i <;> simp [Op.byte]

@[simp] theorem opcodeOf_wordI (t : BitVec 3) : opcodeOf (wordI t) = Op.byte .inst := by
  unfold opcodeOf wordI opWord
  ext i hi
  simp
  interval_cases i <;> simp [Op.byte]

@[simp] theorem wordI_type (t : BitVec 3) : (wordI t).extractLsb' 0 3 = t := by
  unfold wordI opWord
  ext i hi
  simp
  interval_cases i <;> simp [Op.byte]

@[simp] theorem zeroField_wordI (t : BitVec 3) : zeroField (wordI t) 3 21 = true := by
  unfold zeroField wordI opWord
  rw [beq_iff_eq]
  ext i hi
  simp
  interval_cases i <;> simp [Op.byte]

@[simp] theorem opcodeOf_wordB (op : Op) (d : Byte) : opcodeOf (wordB op d) = op.byte := by
  unfold opcodeOf wordB opWord
  ext i hi
  simp
  interval_cases i <;> simp

@[simp] theorem wordB_duty (op : Op) (d : Byte) : (wordB op d).extractLsb' 0 8 = d := by
  unfold wordB opWord
  ext i hi
  simp
  interval_cases i <;> simp

@[simp] theorem zeroField_wordB (op : Op) (d : Byte) : zeroField (wordB op d) 8 16 = true := by
  unfold zeroField wordB opWord
  rw [beq_iff_eq]
  ext i hi
  simp
  omega

/-! ## Each format's word from its fields -/

theorem eq_wordZ {w : Word} {op : Op} (h : opcodeOf w = op.byte) (h₀ : zeroField w 0 24 = true) : w = wordZ op := by
  refine word_eq_of_field _ _ (fields_join _ _ 0 24 8 ?_ ?_)
  · rw [zeroField_eq h₀, zeroField_eq (zeroField_wordZ op)]
  · exact h.trans (opcodeOf_wordZ op).symm

theorem eq_wordR {w : Word} (h : opcodeOf w = Op.byte .row) (h₀ : zeroField w 0 12 = true) :
    w = wordR (RowKind.ofBits (w.extractLsb' 22 2)) (w.extractLsb' 18 4) (w.extractLsb' 15 3) (w.extractLsb' 12 3) := by
  refine word_eq_of_field _ _ (fields_join _ _ 0 24 8 (fields_join _ _ 0 22 2 (fields_join _ _ 0 18 4
    (fields_join _ _ 0 15 3 (fields_join _ _ 0 12 3 ?_ ?_) ?_) ?_) ?_) ?_)
  · rw [zeroField_eq h₀, zeroField_eq (zeroField_wordR ..)]
  · simp
  · simp
  · simp
  · simp
  · exact h.trans (opcodeOf_wordR ..).symm

theorem eq_wordN {w : Word} (h : opcodeOf w = Op.byte .note) (h₁ : zeroField w 22 2 = true) (h₀ : zeroField w 0 15 = true) :
    w = wordN (w.extractLsb' 18 4) (w.extractLsb' 15 3) := by
  refine word_eq_of_field _ _ (fields_join _ _ 0 24 8 (fields_join _ _ 0 22 2 (fields_join _ _ 0 18 4
    (fields_join _ _ 0 15 3 ?_ ?_) ?_) ?_) ?_)
  · rw [zeroField_eq h₀, zeroField_eq (zeroField_wordN_low ..)]
  · simp
  · simp
  · exact (zeroField_eq h₁).trans (zeroField_eq (zeroField_wordN_high ..)).symm
  · exact h.trans (opcodeOf_wordN ..).symm

theorem eq_wordF {w : Word} (h : opcodeOf w = Op.byte .fx) (h₁ : zeroField w 16 8 = true) :
    w = wordF (w.extractLsb' 8 8) (w.extractLsb' 0 8) := by
  refine word_eq_of_field _ _ (fields_join _ _ 0 24 8 (fields_join _ _ 0 16 8 (fields_join _ _ 0 8 8 ?_ ?_) ?_) ?_)
  · simp
  · simp
  · exact (zeroField_eq h₁).trans (zeroField_eq (zeroField_wordF ..)).symm
  · exact h.trans (opcodeOf_wordF ..).symm

theorem eq_wordB {w : Word} {op : Op} (h : opcodeOf w = op.byte) (h₁ : zeroField w 8 16 = true) :
    w = wordB op (w.extractLsb' 0 8) := by
  refine word_eq_of_field _ _ (fields_join _ _ 0 24 8 (fields_join _ _ 0 8 16 ?_ ?_) ?_)
  · simp
  · exact (zeroField_eq h₁).trans (zeroField_eq (zeroField_wordB ..)).symm
  · exact h.trans (opcodeOf_wordB ..).symm

theorem eq_wordT {w : Word} (h : opcodeOf w = Op.byte .tick) (h₁ : zeroField w 15 9 = true) :
    w = wordT (w.extractLsb' 4 11) (w.extractLsb' 0 4) := by
  refine word_eq_of_field _ _ (fields_join _ _ 0 24 8 (fields_join _ _ 0 15 9 (fields_join _ _ 0 4 11 ?_ ?_) ?_) ?_)
  · simp
  · simp
  · exact (zeroField_eq h₁).trans (zeroField_eq (zeroField_wordT ..)).symm
  · exact h.trans (opcodeOf_wordT ..).symm

theorem eq_wordI {w : Word} (h : opcodeOf w = Op.byte .inst) (h₁ : zeroField w 3 21 = true) :
    w = wordI (w.extractLsb' 0 3) := by
  refine word_eq_of_field _ _ (fields_join _ _ 0 24 8 (fields_join _ _ 0 3 21 ?_ ?_) ?_)
  · simp
  · exact (zeroField_eq h₁).trans (zeroField_eq (zeroField_wordI ..)).symm
  · exact h.trans (opcodeOf_wordI ..).symm

/-! ## Effects -/

theorem lenParam_lt (p : BitVec 5) : lenParam p < 0x20#8 := by
  revert p; decide

@[simp] theorem lenParam_low (p : BitVec 5) : (lenParam p).extractLsb' 0 5 = p := by
  revert p; decide

theorem modeParam_range (p : BitVec 2) :
    ¬ modeParam p < 0x20#8 ∧ 0xE0#8 ≤ modeParam p ∧ modeParam p < 0xE4#8 := by
  revert p; decide

@[simp] theorem modeParam_low (p : BitVec 2) : (modeParam p).extractLsb' 0 2 = p := by
  revert p; decide

theorem lenParam_of_lt {p : Byte} (h : p < 0x20#8) : lenParam (p.extractLsb' 0 5) = p := by
  revert p; decide

theorem modeParam_of_range {p : Byte} (h : 0xE0#8 ≤ p ∧ p < 0xE4#8) : modeParam (p.extractLsb' 0 2) = p := by
  revert p; decide

/-- Every selector and parameter is some sub-form's, the sub-form is well formed, and its word is the word of that selector
and parameter (41_effect_commands.md R110). -/
theorem encode_decodeFx (sel : Selectors) (e p : Byte) :
    (decodeFx sel e p).wellFormed sel = true ∧ encode sel (decodeFx sel e p) = [wordF e p] := by
  unfold decodeFx
  split_ifs with he hl hm hd
  · subst he; simp [Instr.wellFormed, encode, lenParam_of_lt hl]
  · subst he; simp [Instr.wellFormed, encode, modeParam_of_range hm]
  · subst he; refine ⟨?_, rfl⟩
    simp only [Instr.wellFormed, ignoredVolumeParam]
    simp only [Bool.and_eq_true, Bool.not_eq_true', decide_eq_false_iff_not, hl, not_false_eq_true, true_and,
      Bool.and_eq_false_iff]
    by_cases h : 0xE0#8 ≤ p
    · exact .inr (fun h' => hm ⟨h, h'⟩)
    · exact .inl h
  · subst hd; simp [Instr.wellFormed, encode, he]
  · simp [Instr.wellFormed, encode, otherSelector, he, hd]

theorem decodeFx_len (sel : Selectors) (p : BitVec 5) : decodeFx sel sel.efVolume (lenParam p) = .volfxLen p := by
  simp [decodeFx, lenParam_lt]

theorem decodeFx_mode (sel : Selectors) (p : BitVec 2) : decodeFx sel sel.efVolume (modeParam p) = .volfxMode p := by
  have h := modeParam_range p
  unfold decodeFx
  rw [if_pos rfl, if_neg h.1, if_pos h.2, modeParam_low]

theorem decodeFx_ign (sel : Selectors) {p : Byte} (h : ignoredVolumeParam p = true) :
    decodeFx sel sel.efVolume p = .volfxIgn p := by
  have key : ∀ p : Byte, ignoredVolumeParam p = true → ¬ p < 0x20#8 ∧ ¬ (0xE0#8 ≤ p ∧ p < 0xE4#8) := by decide
  unfold decodeFx
  rw [if_pos rfl, if_neg (key p h).1, if_neg (key p h).2]

theorem decodeFx_duty {sel : Selectors} (h : sel.efDuty ≠ sel.efVolume) (p : Byte) :
    decodeFx sel sel.efDuty p = .dutyfx p := by
  simp [decodeFx, h]

theorem decodeFx_other {sel : Selectors} {e p : Byte} (h : otherSelector sel e = true) : decodeFx sel e p = .fxother e p := by
  simp only [otherSelector, Bool.and_eq_true, bne_iff_ne] at h
  simp [decodeFx, h.1, h.2]

/-! ## One word at a time -/

/-- A one-word command decodes exactly where its must-be-zero bits are zero. -/
theorem oneWord_eq_ok {m : Bool} {i j : Instr} {ws rest : List Word} :
    oneWord m i ws = .ok (j, rest) ↔ m = true ∧ i = j ∧ ws = rest := by
  cases m <;> simp [oneWord]

/-- A first word whose opcode is unassigned spells no command (30_encoding.md R72). -/
theorem decode_unassigned (sel : Selectors) {w : Word} (ws : List Word) (h : Op.ofByte (opcodeOf w) = none) :
    decode sel (w :: ws) = .error .unassignedOpcode := by
  simp [decode, h]

/-- A first word with an assigned opcode, decoded by its format (30_encoding.md R61, R70). -/
theorem decode_assigned (sel : Selectors) {w : Word} {op : Op} (ws : List Word) (h : Op.ofByte (opcodeOf w) = some op) :
    decode sel (w :: ws) =
      match op with
      | .rst => oneWord (zeroField w 0 24) .rst ws
      | .row => decodeRow w ws
      | .empty => oneWord (zeroField w 0 24) .empty ws
      | .cut => oneWord (zeroField w 0 24) .cut ws
      | .rel => oneWord (zeroField w 0 24) .rel ws
      | .note => oneWord (zeroField w 22 2 && zeroField w 0 15) (.note (w.extractLsb' 18 4) (w.extractLsb' 15 3)) ws
      | .fx => oneWord (zeroField w 16 8) (decodeFx sel (w.extractLsb' 8 8) (w.extractLsb' 0 8)) ws
      | .inst => oneWord (zeroField w 3 21) (.inst (w.extractLsb' 0 3)) ws
      | .seqduty => oneWord (zeroField w 8 16) (.seqduty (w.extractLsb' 0 8)) ws
      | .tick => oneWord (zeroField w 15 9) (.tick (w.extractLsb' 4 11) (w.extractLsb' 0 4)) ws
      | .clr => oneWord (zeroField w 0 24) .clr ws
      | .effstr => oneWord (zeroField w 0 24) .effstr ws
      | .cvd => oneWord (zeroField w 8 16) (.cvd (w.extractLsb' 0 8)) ws := by
  cases op <;> simp [decode, h]

/-- The first word of a command is a whole word: no command has no words. -/
theorem encode_ne_nil (sel : Selectors) (i : Instr) : encode sel i ≠ [] := by cases i <;> simp [encode]

/-! ## Masks -/

/-- Where a mask covers a field whole, a masked match fixes the field (30_encoding.md R70). -/
theorem field_of_mask {w m p : Word} (h : w &&& m = p) (lo n : Nat) (hm : m.extractLsb' lo n = BitVec.allOnes n) :
    w.extractLsb' lo n = p.extractLsb' lo n := by
  have e := congrArg (BitVec.extractLsb' lo n) h
  rwa [BitVec.extractLsb'_and, hm, BitVec.and_allOnes] at e

/-! ## Extension words -/

@[simp] theorem decodeExt_wordF (c : Fx) : decodeExt (wordF c.e c.p) = some c := by simp [decodeExt]

/-- A word that is an extension word is the word of its selector and parameter. -/
theorem eq_of_decodeExt {w : Word} {c : Fx} (h : decodeExt w = some c) : w = wordF c.e c.p := by
  unfold decodeExt at h
  split_ifs at h with hw
  obtain ⟨h₁, h₂⟩ := hw
  cases h
  exact eq_wordF h₁ h₂

/-- The extension words of a list of columns are read back as those columns. -/
theorem decodeExts_encoded (fx : List Fx) (rest : List Word) :
    decodeExts fx.length (fx.map (fun c => wordF c.e c.p) ++ rest) = .ok (fx, rest) := by
  induction fx with
  | nil => rfl
  | cons c fx ih => simp [decodeExts, ih]

/-- What was read as columns was the columns' extension words, as many as were asked for. -/
theorem eq_of_decodeExts {n : Nat} {ws rest : List Word} {fx : List Fx} (h : decodeExts n ws = .ok (fx, rest)) :
    fx.length = n ∧ ws = fx.map (fun c => wordF c.e c.p) ++ rest := by
  induction n generalizing ws fx with
  | zero => cases h; simp
  | succ n ih =>
    cases ws with
    | nil => simp [decodeExts] at h
    | cons w ws =>
      unfold decodeExts at h
      cases hc : decodeExt w with
      | none => simp [hc] at h
      | some c =>
        cases hr : decodeExts n ws with
        | error r => simp [hc, hr] at h
        | ok q =>
          obtain ⟨cs, rest'⟩ := q
          simp only [hc, hr, Except.ok.injEq, Prod.mk.injEq] at h
          obtain ⟨rfl, rfl⟩ := h
          obtain ⟨hl, hw⟩ := ih hr
          exact ⟨by simp [hl], by simp [hw, eq_of_decodeExt hc]⟩

end Sys2Proof
end

