-- ==== Sys2Proof/Laws/State.lean ====
section
/-! SUPPORT. One lemma per field per update of the state, so that no proof unfolds a record update: the named operations
on the machine (Machine/Ops.lean), then the updates of the voice the meanings are made of. -/

namespace Sys2Proof.Machine

/-! ## The machine -/

@[simp] theorem setVoice_params (s : State) (v : Voice) : (s.setVoice v).params = s.params := rfl
@[simp] theorem setVoice_voice (s : State) (v : Voice) : (s.setVoice v).voice = v := rfl
@[simp] theorem setVoice_port (s : State) (v : Voice) : (s.setVoice v).port = s.port := rfl
@[simp] theorem setVoice_trace (s : State) (v : Voice) : (s.setVoice v).trace = s.trace := rfl
@[simp] theorem setVoice_results (s : State) (v : Voice) : (s.setVoice v).results = s.results := rfl

@[simp] theorem regWrite_params (s : State) (a : Addr) (v : Byte) : (s.regWrite a v).params = s.params := rfl
@[simp] theorem regWrite_voice (s : State) (a : Addr) (v : Byte) : (s.regWrite a v).voice = s.voice := rfl
@[simp] theorem regWrite_port (s : State) (a : Addr) (v : Byte) : (s.regWrite a v).port = s.port := rfl
@[simp] theorem regWrite_trace (s : State) (a : Addr) (v : Byte) : (s.regWrite a v).trace = s.trace ++ [(a, v)] := rfl
@[simp] theorem regWrite_results (s : State) (a : Addr) (v : Byte) : (s.regWrite a v).results = s.results := rfl

@[simp] theorem deliver_params (s : State) (r : Result) : (s.deliver r).params = s.params := rfl
@[simp] theorem deliver_voice (s : State) (r : Result) : (s.deliver r).voice = s.voice := rfl
@[simp] theorem deliver_port (s : State) (r : Result) : (s.deliver r).port = s.port := rfl
@[simp] theorem deliver_trace (s : State) (r : Result) : (s.deliver r).trace = s.trace := rfl
@[simp] theorem deliver_results (s : State) (r : Result) : (s.deliver r).results = s.results ++ [r] := rfl

@[simp] theorem setPort_params (s : State) (ws : List Word) : (s.setPort ws).params = s.params := rfl
@[simp] theorem setPort_voice (s : State) (ws : List Word) : (s.setPort ws).voice = s.voice := rfl
@[simp] theorem setPort_port (s : State) (ws : List Word) : (s.setPort ws).port = ws := rfl
@[simp] theorem setPort_trace (s : State) (ws : List Word) : (s.setPort ws).trace = s.trace := rfl
@[simp] theorem setPort_results (s : State) (ws : List Word) : (s.setPort ws).results = s.results := rfl

@[simp] theorem issue_params (s : State) (ws : List Word) : (s.issue ws).params = s.params := rfl
@[simp] theorem issue_voice (s : State) (ws : List Word) : (s.issue ws).voice = s.voice := rfl
@[simp] theorem issue_port (s : State) (ws : List Word) : (s.issue ws).port = s.port ++ ws := rfl
@[simp] theorem issue_trace (s : State) (ws : List Word) : (s.issue ws).trace = s.trace := rfl
@[simp] theorem issue_results (s : State) (ws : List Word) : (s.issue ws).results = s.results := rfl

@[simp] theorem placeWords_params (s : State) (ws : List Word) : (s.placeWords ws).params = s.params := rfl
@[simp] theorem placeWords_voice (s : State) (ws : List Word) : (s.placeWords ws).voice = s.voice := rfl
@[simp] theorem placeWords_port (s : State) (ws : List Word) : (s.placeWords ws).port = ws ++ s.port := rfl
@[simp] theorem placeWords_trace (s : State) (ws : List Word) : (s.placeWords ws).trace = s.trace := rfl
@[simp] theorem placeWords_results (s : State) (ws : List Word) : (s.placeWords ws).results = s.results := rfl

/-- A burst is appended to the trace as it stands, in order, and touches nothing else (20_memory.md R48). -/
theorem emit_eq (s : State) (b : List SinkWrite) : s.emit b = { s with trace := s.trace ++ b } := by
  induction b generalizing s with
  | nil => simp [State.emit]
  | cons w b ih =>
    have : s.emit (w :: b) = (s.regWrite w.1 w.2).emit b := rfl
    rw [this, ih]
    simp [State.regWrite]

@[simp] theorem emit_params (s : State) (b : List SinkWrite) : (s.emit b).params = s.params := by rw [emit_eq]
@[simp] theorem emit_voice (s : State) (b : List SinkWrite) : (s.emit b).voice = s.voice := by rw [emit_eq]
@[simp] theorem emit_port (s : State) (b : List SinkWrite) : (s.emit b).port = s.port := by rw [emit_eq]
@[simp] theorem emit_trace (s : State) (b : List SinkWrite) : (s.emit b).trace = s.trace ++ b := by rw [emit_eq]
@[simp] theorem emit_results (s : State) (b : List SinkWrite) : (s.emit b).results = s.results := by rw [emit_eq]

/-- The words an instruction of the table is made of stand at the head of the port, and nothing else changes. -/
theorem withFetchWord_eq (s : State) (nbits w : Nat) :
    s.withFetchWord nbits w = { s with port := tableWords nbits w ++ s.port } := rfl

/-! ## The voice -/

@[simp] theorem doVolfxLen_period (p : BitVec 5) (v : Voice) : (doVolfxLen p v).period = v.period := rfl
@[simp] theorem doVolfxLen_volume (p : BitVec 5) (v : Voice) : (doVolfxLen p v).volume = v.volume := rfl
@[simp] theorem doVolfxLen_dutyPeriod (p : BitVec 5) (v : Voice) : (doVolfxLen p v).dutyPeriod = v.dutyPeriod := rfl
@[simp] theorem doVolfxLen_dutyDefault (p : BitVec 5) (v : Voice) : (doVolfxLen p v).dutyDefault = v.dutyDefault := rfl
@[simp] theorem doVolfxLen_lastPeriod (p : BitVec 5) (v : Voice) : (doVolfxLen p v).lastPeriod = v.lastPeriod := rfl
@[simp] theorem doVolfxLen_lengthCounter (p : BitVec 5) (v : Voice) : (doVolfxLen p v).lengthCounter = p := rfl
@[simp] theorem doVolfxLen_volCeil (p : BitVec 5) (v : Voice) : (doVolfxLen p v).volCeil = v.volCeil := rfl
@[simp] theorem doVolfxLen_instType (p : BitVec 5) (v : Voice) : (doVolfxLen p v).instType = v.instType := rfl
@[simp] theorem doVolfxLen_ih (p : BitVec 5) (v : Voice) : (doVolfxLen p v).ih = v.ih := rfl
@[simp] theorem doVolfxLen_gate (p : BitVec 5) (v : Voice) : (doVolfxLen p v).gate = v.gate := rfl
@[simp] theorem doVolfxLen_hardwareEnvelope (p : BitVec 5) (v : Voice) : (doVolfxLen p v).hardwareEnvelope = v.hardwareEnvelope := rfl
@[simp] theorem doVolfxLen_envelopeLoop (p : BitVec 5) (v : Voice) : (doVolfxLen p v).envelopeLoop = false := rfl
@[simp] theorem doVolfxLen_resetEnvelope (p : BitVec 5) (v : Voice) : (doVolfxLen p v).resetEnvelope = true := rfl
@[simp] theorem doVolfxLen_releasing (p : BitVec 5) (v : Voice) : (doVolfxLen p v).releasing = v.releasing := rfl

@[simp] theorem doVolfxMode_period (p : BitVec 2) (v : Voice) : (doVolfxMode p v).period = v.period := rfl
@[simp] theorem doVolfxMode_volume (p : BitVec 2) (v : Voice) : (doVolfxMode p v).volume = v.volume := rfl
@[simp] theorem doVolfxMode_dutyPeriod (p : BitVec 2) (v : Voice) : (doVolfxMode p v).dutyPeriod = v.dutyPeriod := rfl
@[simp] theorem doVolfxMode_dutyDefault (p : BitVec 2) (v : Voice) : (doVolfxMode p v).dutyDefault = v.dutyDefault := rfl
@[simp] theorem doVolfxMode_lastPeriod (p : BitVec 2) (v : Voice) : (doVolfxMode p v).lastPeriod = v.lastPeriod := rfl
@[simp] theorem doVolfxMode_lengthCounter (p : BitVec 2) (v : Voice) : (doVolfxMode p v).lengthCounter = v.lengthCounter := rfl
@[simp] theorem doVolfxMode_volCeil (p : BitVec 2) (v : Voice) : (doVolfxMode p v).volCeil = v.volCeil := rfl
@[simp] theorem doVolfxMode_instType (p : BitVec 2) (v : Voice) : (doVolfxMode p v).instType = v.instType := rfl
@[simp] theorem doVolfxMode_ih (p : BitVec 2) (v : Voice) : (doVolfxMode p v).ih = v.ih := rfl
@[simp] theorem doVolfxMode_gate (p : BitVec 2) (v : Voice) : (doVolfxMode p v).gate = v.gate := rfl
@[simp] theorem doVolfxMode_hardwareEnvelope (p : BitVec 2) (v : Voice) : (doVolfxMode p v).hardwareEnvelope = p.getLsbD 0 := rfl
@[simp] theorem doVolfxMode_envelopeLoop (p : BitVec 2) (v : Voice) : (doVolfxMode p v).envelopeLoop = !p.getLsbD 1 := rfl
@[simp] theorem doVolfxMode_resetEnvelope (p : BitVec 2) (v : Voice) : (doVolfxMode p v).resetEnvelope = (v.resetEnvelope || v.modeRequestsReset) := rfl
@[simp] theorem doVolfxMode_releasing (p : BitVec 2) (v : Voice) : (doVolfxMode p v).releasing = v.releasing := rfl

@[simp] theorem doDutyfx_period (p : Byte) (v : Voice) : (doDutyfx p v).period = v.period := rfl
@[simp] theorem doDutyfx_volume (p : Byte) (v : Voice) : (doDutyfx p v).volume = v.volume := rfl
@[simp] theorem doDutyfx_dutyPeriod (p : Byte) (v : Voice) : (doDutyfx p v).dutyPeriod = p := rfl
@[simp] theorem doDutyfx_dutyDefault (p : Byte) (v : Voice) : (doDutyfx p v).dutyDefault = p := rfl
@[simp] theorem doDutyfx_lastPeriod (p : Byte) (v : Voice) : (doDutyfx p v).lastPeriod = v.lastPeriod := rfl
@[simp] theorem doDutyfx_lengthCounter (p : Byte) (v : Voice) : (doDutyfx p v).lengthCounter = v.lengthCounter := rfl
@[simp] theorem doDutyfx_volCeil (p : Byte) (v : Voice) : (doDutyfx p v).volCeil = v.volCeil := rfl
@[simp] theorem doDutyfx_instType (p : Byte) (v : Voice) : (doDutyfx p v).instType = v.instType := rfl
@[simp] theorem doDutyfx_ih (p : Byte) (v : Voice) : (doDutyfx p v).ih = v.ih := rfl
@[simp] theorem doDutyfx_gate (p : Byte) (v : Voice) : (doDutyfx p v).gate = v.gate := rfl
@[simp] theorem doDutyfx_hardwareEnvelope (p : Byte) (v : Voice) : (doDutyfx p v).hardwareEnvelope = v.hardwareEnvelope := rfl
@[simp] theorem doDutyfx_envelopeLoop (p : Byte) (v : Voice) : (doDutyfx p v).envelopeLoop = v.envelopeLoop := rfl
@[simp] theorem doDutyfx_resetEnvelope (p : Byte) (v : Voice) : (doDutyfx p v).resetEnvelope = v.resetEnvelope := rfl
@[simp] theorem doDutyfx_releasing (p : Byte) (v : Voice) : (doDutyfx p v).releasing = v.releasing := rfl

@[simp] theorem doNote_period (n : BitVec 4) (o : BitVec 3) (v : Voice) : (doNote n o v).period = Config.noteTable o n := rfl
@[simp] theorem doNote_volume (n : BitVec 4) (o : BitVec 3) (v : Voice) : (doNote n o v).volume = v.volume := rfl
@[simp] theorem doNote_dutyPeriod (n : BitVec 4) (o : BitVec 3) (v : Voice) : (doNote n o v).dutyPeriod = v.dutyDefault := rfl
@[simp] theorem doNote_dutyDefault (n : BitVec 4) (o : BitVec 3) (v : Voice) : (doNote n o v).dutyDefault = v.dutyDefault := rfl
@[simp] theorem doNote_lastPeriod (n : BitVec 4) (o : BitVec 3) (v : Voice) : (doNote n o v).lastPeriod = v.lastPeriod := rfl
@[simp] theorem doNote_lengthCounter (n : BitVec 4) (o : BitVec 3) (v : Voice) : (doNote n o v).lengthCounter = v.lengthCounter := rfl
@[simp] theorem doNote_volCeil (n : BitVec 4) (o : BitVec 3) (v : Voice) : (doNote n o v).volCeil = 0x0F := rfl
@[simp] theorem doNote_instType (n : BitVec 4) (o : BitVec 3) (v : Voice) : (doNote n o v).instType = v.instType := rfl
@[simp] theorem doNote_ih (n : BitVec 4) (o : BitVec 3) (v : Voice) : (doNote n o v).ih = v.ih := rfl
@[simp] theorem doNote_gate (n : BitVec 4) (o : BitVec 3) (v : Voice) : (doNote n o v).gate = v.gate := rfl
@[simp] theorem doNote_hardwareEnvelope (n : BitVec 4) (o : BitVec 3) (v : Voice) : (doNote n o v).hardwareEnvelope = v.hardwareEnvelope := rfl
@[simp] theorem doNote_envelopeLoop (n : BitVec 4) (o : BitVec 3) (v : Voice) : (doNote n o v).envelopeLoop = v.envelopeLoop := rfl
@[simp] theorem doNote_resetEnvelope (n : BitVec 4) (o : BitVec 3) (v : Voice) : (doNote n o v).resetEnvelope = v.resetEnvelope := rfl
@[simp] theorem doNote_releasing (n : BitVec 4) (o : BitVec 3) (v : Voice) : (doNote n o v).releasing = v.releasing := rfl

@[simp] theorem doCut_period (v : Voice) : (doCut v).period = v.period := rfl
@[simp] theorem doCut_volume (v : Voice) : (doCut v).volume = v.volume := rfl
@[simp] theorem doCut_dutyPeriod (v : Voice) : (doCut v).dutyPeriod = v.dutyPeriod := rfl
@[simp] theorem doCut_dutyDefault (v : Voice) : (doCut v).dutyDefault = v.dutyDefault := rfl
@[simp] theorem doCut_lastPeriod (v : Voice) : (doCut v).lastPeriod = v.lastPeriod := rfl
@[simp] theorem doCut_lengthCounter (v : Voice) : (doCut v).lengthCounter = v.lengthCounter := rfl
@[simp] theorem doCut_volCeil (v : Voice) : (doCut v).volCeil = v.volCeil := rfl
@[simp] theorem doCut_instType (v : Voice) : (doCut v).instType = v.instType := rfl
@[simp] theorem doCut_ih (v : Voice) : (doCut v).ih = v.ih := rfl
@[simp] theorem doCut_gate (v : Voice) : (doCut v).gate = false := rfl
@[simp] theorem doCut_hardwareEnvelope (v : Voice) : (doCut v).hardwareEnvelope = v.hardwareEnvelope := rfl
@[simp] theorem doCut_envelopeLoop (v : Voice) : (doCut v).envelopeLoop = v.envelopeLoop := rfl
@[simp] theorem doCut_resetEnvelope (v : Voice) : (doCut v).resetEnvelope = v.resetEnvelope := rfl
@[simp] theorem doCut_releasing (v : Voice) : (doCut v).releasing = v.releasing := rfl

@[simp] theorem doRel_period (v : Voice) : (doRel v).period = v.period := by unfold doRel; split <;> simp_all
@[simp] theorem doRel_volume (v : Voice) : (doRel v).volume = v.volume := by unfold doRel; split <;> simp_all
@[simp] theorem doRel_dutyPeriod (v : Voice) : (doRel v).dutyPeriod = v.dutyPeriod := by unfold doRel; split <;> simp_all
@[simp] theorem doRel_dutyDefault (v : Voice) : (doRel v).dutyDefault = v.dutyDefault := by unfold doRel; split <;> simp_all
@[simp] theorem doRel_lastPeriod (v : Voice) : (doRel v).lastPeriod = v.lastPeriod := by unfold doRel; split <;> simp_all
@[simp] theorem doRel_lengthCounter (v : Voice) : (doRel v).lengthCounter = v.lengthCounter := by unfold doRel; split <;> simp_all
@[simp] theorem doRel_volCeil (v : Voice) : (doRel v).volCeil = v.volCeil := by unfold doRel; split <;> simp_all
@[simp] theorem doRel_instType (v : Voice) : (doRel v).instType = v.instType := by unfold doRel; split <;> simp_all
@[simp] theorem doRel_ih (v : Voice) : (doRel v).ih = v.ih := by unfold doRel; split <;> simp_all
@[simp] theorem doRel_gate (v : Voice) : (doRel v).gate = v.gate := by unfold doRel; split <;> simp_all
@[simp] theorem doRel_hardwareEnvelope (v : Voice) : (doRel v).hardwareEnvelope = v.hardwareEnvelope := by unfold doRel; split <;> simp_all
@[simp] theorem doRel_envelopeLoop (v : Voice) : (doRel v).envelopeLoop = v.envelopeLoop := by unfold doRel; split <;> simp_all
@[simp] theorem doRel_resetEnvelope (v : Voice) : (doRel v).resetEnvelope = v.resetEnvelope := by unfold doRel; split <;> simp_all
@[simp] theorem doRel_releasing (v : Voice) : (doRel v).releasing = true := by unfold doRel; split <;> simp_all

@[simp] theorem latch_period (P : BitVec 11) (V : BitVec 4) (v : Voice) : (latch P V v).period = P := rfl
@[simp] theorem latch_volume (P : BitVec 11) (V : BitVec 4) (v : Voice) : (latch P V v).volume = V := rfl
@[simp] theorem latch_dutyPeriod (P : BitVec 11) (V : BitVec 4) (v : Voice) : (latch P V v).dutyPeriod = v.dutyPeriod := rfl
@[simp] theorem latch_dutyDefault (P : BitVec 11) (V : BitVec 4) (v : Voice) : (latch P V v).dutyDefault = v.dutyDefault := rfl
@[simp] theorem latch_lastPeriod (P : BitVec 11) (V : BitVec 4) (v : Voice) : (latch P V v).lastPeriod = v.lastPeriod := rfl
@[simp] theorem latch_lengthCounter (P : BitVec 11) (V : BitVec 4) (v : Voice) : (latch P V v).lengthCounter = v.lengthCounter := rfl
@[simp] theorem latch_volCeil (P : BitVec 11) (V : BitVec 4) (v : Voice) : (latch P V v).volCeil = v.volCeil := rfl
@[simp] theorem latch_instType (P : BitVec 11) (V : BitVec 4) (v : Voice) : (latch P V v).instType = v.instType := rfl
@[simp] theorem latch_ih (P : BitVec 11) (V : BitVec 4) (v : Voice) : (latch P V v).ih = v.ih := rfl
@[simp] theorem latch_gate (P : BitVec 11) (V : BitVec 4) (v : Voice) : (latch P V v).gate = v.gate := rfl
@[simp] theorem latch_hardwareEnvelope (P : BitVec 11) (V : BitVec 4) (v : Voice) : (latch P V v).hardwareEnvelope = v.hardwareEnvelope := rfl
@[simp] theorem latch_envelopeLoop (P : BitVec 11) (V : BitVec 4) (v : Voice) : (latch P V v).envelopeLoop = v.envelopeLoop := rfl
@[simp] theorem latch_resetEnvelope (P : BitVec 11) (V : BitVec 4) (v : Voice) : (latch P V v).resetEnvelope = v.resetEnvelope := rfl
@[simp] theorem latch_releasing (P : BitVec 11) (V : BitVec 4) (v : Voice) : (latch P V v).releasing = v.releasing := rfl

@[simp] theorem tickVoice_period (P : BitVec 11) (V : BitVec 4) (v : Voice) : (tickVoice P V v).period = P := rfl
@[simp] theorem tickVoice_volume (P : BitVec 11) (V : BitVec 4) (v : Voice) : (tickVoice P V v).volume = V := rfl
@[simp] theorem tickVoice_dutyPeriod (P : BitVec 11) (V : BitVec 4) (v : Voice) : (tickVoice P V v).dutyPeriod = v.dutyPeriod := rfl
@[simp] theorem tickVoice_dutyDefault (P : BitVec 11) (V : BitVec 4) (v : Voice) : (tickVoice P V v).dutyDefault = v.dutyDefault := rfl
@[simp] theorem tickVoice_lastPeriod (P : BitVec 11) (V : BitVec 4) (v : Voice) : (tickVoice P V v).lastPeriod = if v.gate then P.setWidth 16 else sentinel := rfl
@[simp] theorem tickVoice_lengthCounter (P : BitVec 11) (V : BitVec 4) (v : Voice) : (tickVoice P V v).lengthCounter = v.lengthCounter := rfl
@[simp] theorem tickVoice_volCeil (P : BitVec 11) (V : BitVec 4) (v : Voice) : (tickVoice P V v).volCeil = v.volCeil := rfl
@[simp] theorem tickVoice_instType (P : BitVec 11) (V : BitVec 4) (v : Voice) : (tickVoice P V v).instType = v.instType := rfl
@[simp] theorem tickVoice_ih (P : BitVec 11) (V : BitVec 4) (v : Voice) : (tickVoice P V v).ih = v.ih := rfl
@[simp] theorem tickVoice_gate (P : BitVec 11) (V : BitVec 4) (v : Voice) : (tickVoice P V v).gate = v.gate := rfl
@[simp] theorem tickVoice_hardwareEnvelope (P : BitVec 11) (V : BitVec 4) (v : Voice) : (tickVoice P V v).hardwareEnvelope = v.hardwareEnvelope := rfl
@[simp] theorem tickVoice_envelopeLoop (P : BitVec 11) (V : BitVec 4) (v : Voice) : (tickVoice P V v).envelopeLoop = v.envelopeLoop := rfl
@[simp] theorem tickVoice_resetEnvelope (P : BitVec 11) (V : BitVec 4) (v : Voice) : (tickVoice P V v).resetEnvelope = false := rfl
@[simp] theorem tickVoice_releasing (P : BitVec 11) (V : BitVec 4) (v : Voice) : (tickVoice P V v).releasing = v.releasing := rfl

@[simp] theorem doRst_period (v : Voice) : (doRst v).period = 0 := rfl
@[simp] theorem doRst_volume (v : Voice) : (doRst v).volume = 0 := rfl
@[simp] theorem doRst_dutyPeriod (v : Voice) : (doRst v).dutyPeriod = 0 := rfl
@[simp] theorem doRst_dutyDefault (v : Voice) : (doRst v).dutyDefault = 0 := rfl
@[simp] theorem doRst_lastPeriod (v : Voice) : (doRst v).lastPeriod = sentinel := rfl
@[simp] theorem doRst_lengthCounter (v : Voice) : (doRst v).lengthCounter = 1 := rfl
@[simp] theorem doRst_volCeil (v : Voice) : (doRst v).volCeil = 0x0F := rfl
@[simp] theorem doRst_instType (v : Voice) : (doRst v).instType = .none := rfl
@[simp] theorem doRst_ih (v : Voice) : (doRst v).ih = none := rfl
@[simp] theorem doRst_gate (v : Voice) : (doRst v).gate = false := rfl
@[simp] theorem doRst_hardwareEnvelope (v : Voice) : (doRst v).hardwareEnvelope = false := rfl
@[simp] theorem doRst_envelopeLoop (v : Voice) : (doRst v).envelopeLoop = true := rfl
@[simp] theorem doRst_resetEnvelope (v : Voice) : (doRst v).resetEnvelope = v.resetEnvelope := rfl
@[simp] theorem doRst_releasing (v : Voice) : (doRst v).releasing = false := rfl

/-- The hook writes the pending reset alone, and only sets it (40_note_commands.md R90). -/
theorem noteHook_eq (k : RowKind) (v : Voice) :
    noteHook k v = { v with resetEnvelope := v.resetEnvelope || (decide (k = .pitched) && v.noteRequestsReset) } := by
  unfold noteHook
  cases hk : decide (k = .pitched) <;> cases hr : v.noteRequestsReset <;> simp_all

@[simp] theorem noteHook_period (k : RowKind) (v : Voice) : (noteHook k v).period = v.period := by rw [noteHook_eq]
@[simp] theorem noteHook_volume (k : RowKind) (v : Voice) : (noteHook k v).volume = v.volume := by rw [noteHook_eq]
@[simp] theorem noteHook_dutyPeriod (k : RowKind) (v : Voice) : (noteHook k v).dutyPeriod = v.dutyPeriod := by rw [noteHook_eq]
@[simp] theorem noteHook_dutyDefault (k : RowKind) (v : Voice) : (noteHook k v).dutyDefault = v.dutyDefault := by rw [noteHook_eq]
@[simp] theorem noteHook_lastPeriod (k : RowKind) (v : Voice) : (noteHook k v).lastPeriod = v.lastPeriod := by rw [noteHook_eq]
@[simp] theorem noteHook_lengthCounter (k : RowKind) (v : Voice) : (noteHook k v).lengthCounter = v.lengthCounter := by rw [noteHook_eq]
@[simp] theorem noteHook_volCeil (k : RowKind) (v : Voice) : (noteHook k v).volCeil = v.volCeil := by rw [noteHook_eq]
@[simp] theorem noteHook_instType (k : RowKind) (v : Voice) : (noteHook k v).instType = v.instType := by rw [noteHook_eq]
@[simp] theorem noteHook_ih (k : RowKind) (v : Voice) : (noteHook k v).ih = v.ih := by rw [noteHook_eq]
@[simp] theorem noteHook_gate (k : RowKind) (v : Voice) : (noteHook k v).gate = v.gate := by rw [noteHook_eq]
@[simp] theorem noteHook_hardwareEnvelope (k : RowKind) (v : Voice) : (noteHook k v).hardwareEnvelope = v.hardwareEnvelope := by rw [noteHook_eq]
@[simp] theorem noteHook_envelopeLoop (k : RowKind) (v : Voice) : (noteHook k v).envelopeLoop = v.envelopeLoop := by rw [noteHook_eq]
@[simp] theorem noteHook_resetEnvelope (k : RowKind) (v : Voice) : (noteHook k v).resetEnvelope = (v.resetEnvelope || (decide (k = .pitched) && v.noteRequestsReset)) := by rw [noteHook_eq]
@[simp] theorem noteHook_releasing (k : RowKind) (v : Voice) : (noteHook k v).releasing = v.releasing := by rw [noteHook_eq]

/-- The columns of a row, one after another. -/
@[simp] theorem doColumns_nil (sel : Selectors) (v : Voice) : doColumns sel [] v = v := rfl

@[simp] theorem doColumns_cons (sel : Selectors) (c : Fx) (fx : List Fx) (v : Voice) :
    doColumns sel (c :: fx) v = doColumns sel fx (doFx sel c v) := rfl

theorem doColumns_append (sel : Selectors) (fx gx : List Fx) (v : Voice) :
    doColumns sel (fx ++ gx) v = doColumns sel gx (doColumns sel fx v) := by
  simp [doColumns]

/-- All an effect can do: a length load, a mode switch, a duty, or nothing (41_effect_commands.md R110). -/
theorem doFx_cases (sel : Selectors) (c : Fx) (v : Voice) :
    (c.e = sel.efVolume ∧ c.p < 0x20#8 ∧ doFx sel c v = doVolfxLen (c.p.extractLsb' 0 5) v) ∨
    (c.e = sel.efVolume ∧ 0xE0#8 ≤ c.p ∧ c.p < 0xE4#8 ∧ doFx sel c v = doVolfxMode (c.p.extractLsb' 0 2) v) ∨
    (c.e = sel.efDuty ∧ doFx sel c v = doDutyfx c.p v) ∨
    (doFx sel c v = v) := by
  unfold doFx
  split_ifs with h₁ h₂ h₃ h₄
  · exact .inl ⟨h₁.1, h₁.2, rfl⟩
  · exact .inr (.inl ⟨h₂.1, h₂.2.1, h₂.2.2, rfl⟩)
  · exact .inr (.inr (.inr rfl))
  · exact .inr (.inr (.inl ⟨h₄, rfl⟩))
  · exact .inr (.inr (.inr rfl))

end Sys2Proof.Machine
end

