-- ==== Sys2Proof/Laws/Memory.lean ====
section
/-! SUPPORT. The laws of the sink image: read after write, that every memory operation keeps the canonical form, and that
the image of a trace is the last byte written to each address (20_memory.md R42, R43). -/

namespace Sys2Proof.Machine

theorem read_write_same (m : Memory) (a : Nat) (v : Byte) : (m.write a v).read a = some v := by
  induction m with
  | nil => simp [Memory.write, Memory.read]
  | cons c m ih =>
    obtain ⟨b, u⟩ := c
    unfold Memory.write
    split_ifs with h₁ h₂
    · simp [Memory.read]
    · simp [Memory.read]
    · simp [Memory.read, h₂, ih]

theorem read_write_other (m : Memory) (a b : Nat) (v : Byte) (h : b ≠ a) : (m.write a v).read b = m.read b := by
  induction m with
  | nil => simp [Memory.write, Memory.read, h]
  | cons c m ih =>
    obtain ⟨k, u⟩ := c
    unfold Memory.write
    split_ifs with h₁ h₂
    · simp [Memory.read, h]
    · subst h₂; simp [Memory.read, h]
    · simp [Memory.read, ih]

/-- The canonical form as an ordering: every address lies below the ones after it, and is a 16-bit address. -/
theorem wf_iff (m : Memory) : m.wf = true ↔ m.Pairwise (fun x y => x.1 < y.1) ∧ ∀ c ∈ m, c.1 < 65536 := by
  induction m with
  | nil => simp [Memory.wf]
  | cons c m ih =>
    obtain ⟨a, v⟩ := c
    cases m with
    | nil => simp [Memory.wf]
    | cons d m =>
      obtain ⟨b, u⟩ := d
      simp only [Memory.wf, Bool.and_eq_true, decide_eq_true_eq, ih, List.pairwise_cons, List.mem_cons,
        forall_eq_or_imp]
      constructor
      · rintro ⟨hab, ⟨hb, hp⟩, hb', hm⟩
        exact ⟨⟨⟨hab, fun x hx => lt_trans hab (hb x hx)⟩, hb, hp⟩, by omega, hb', hm⟩
      · rintro ⟨⟨⟨hab, -⟩, hb, hp⟩, -, hb', hm⟩
        exact ⟨hab, ⟨hb, hp⟩, hb', hm⟩

theorem mem_write (m : Memory) (a : Nat) (v : Byte) (c : Host.Cell) (h : c ∈ m.write a v) : c = (a, v) ∨ c ∈ m := by
  induction m with
  | nil => simpa [Memory.write] using h
  | cons d m ih =>
    obtain ⟨b, u⟩ := d
    unfold Memory.write at h
    split_ifs at h with h₁ h₂
    · simpa using h
    · rcases List.mem_cons.1 h with h | h
      · exact .inl h
      · exact .inr (List.mem_cons_of_mem _ h)
    · rcases List.mem_cons.1 h with h | h
      · exact .inr (by simp [h])
      · exact (ih h).imp id (List.mem_cons_of_mem _)

/-- A write to a 16-bit address keeps the canonical form. -/
theorem write_wf (m : Memory) (a : Nat) (v : Byte) (h : m.wf = true) (ha : a < 65536) : (m.write a v).wf = true := by
  rw [wf_iff] at h ⊢
  refine ⟨?_, fun c hc => (mem_write m a v c hc).elim (fun e => by simp [e, ha]) (h.2 c)⟩
  induction m with
  | nil => simp [Memory.write]
  | cons d m ih =>
    obtain ⟨b, u⟩ := d
    have hp := List.pairwise_cons.1 h.1
    have hm := ih ⟨hp.2, fun c hc => h.2 c (List.mem_cons_of_mem _ hc)⟩
    unfold Memory.write
    split_ifs with h₁ h₂
    · refine List.pairwise_cons.2 ⟨fun c hc => ?_, h.1⟩
      rcases List.mem_cons.1 hc with e | hc
      · simp [e, h₁]
      · exact lt_trans h₁ (hp.1 c hc)
    · subst h₂; exact List.pairwise_cons.2 ⟨hp.1, hp.2⟩
    · refine List.pairwise_cons.2 ⟨fun c hc => ?_, hm⟩
      rcases mem_write m a v c hc with e | hc
      · simp only [e]; omega
      · exact hp.1 c hc

theorem imageOf_append (tr : List SinkWrite) (a : Addr) (v : Byte) :
    imageOf (tr ++ [(a, v)]) = (imageOf tr).write a.toNat v := by
  simp [imageOf]

/-- The sink image of any trace has the canonical form. -/
theorem imageOf_wf (tr : List SinkWrite) : (imageOf tr).wf = true := by
  induction tr using List.reverseRecOn with
  | nil => rfl
  | append_singleton tr w ih =>
    obtain ⟨a, v⟩ := w
    rw [imageOf_append]
    exact write_wf _ _ _ ih a.isLt

/-- The image after one more write: the new byte at its address, the old image elsewhere. -/
theorem imageOf_append_read (tr : List SinkWrite) (a b : Addr) (v : Byte) :
    (imageOf (tr ++ [(a, v)])).read b.toNat = if b = a then some v else (imageOf tr).read b.toNat := by
  rw [imageOf_append]
  by_cases h : b = a
  · subst h; simp [read_write_same]
  · rw [read_write_other _ _ _ _ (fun e => h (BitVec.eq_of_toNat_eq e)), if_neg h]

/-- Bytes outside the addresses of a burst read as before. -/
theorem imageOf_read_of_not_mem (tr burst : List SinkWrite) (b : Addr) (h : ∀ w ∈ burst, w.1 ≠ b) :
    (imageOf (tr ++ burst)).read b.toNat = (imageOf tr).read b.toNat := by
  induction burst using List.reverseRecOn with
  | nil => simp
  | append_singleton burst w ih =>
    obtain ⟨a, v⟩ := w
    rw [← List.append_assoc, imageOf_append_read, if_neg (fun e => h (a, v) (by simp) e.symm)]
    exact ih (fun w hw => h w (by simp [hw]))

/-- The sink image depends on the trace alone. -/
theorem sinkByte_eq (s : State) (a : Addr) : s.sinkByte a = (imageOf s.trace).read a.toNat := rfl

end Sys2Proof.Machine
end

