-- ==== Sys2Proof/Laws/Exec.lean ====
section
/-! SUPPORT. What one command can do, said once (60_exceptions.md R206: next state, burst, result): the voice it leaves,
what it appends to the write trace and to the results, and that it touches nothing else. Statements about a command cite
`exec_eq` instead of unfolding the meanings. -/

namespace Sys2Proof.Machine

open Host (Outcome)

/-- The voice a command leaves, under the parameters of the voice. -/
def voiceAfter (params : Params) : Instr → Voice → Voice
  | .rst, v => doRst v
  | .row k n o fx, v => doRow params.selectors k n o fx v
  | .empty, v => v
  | .cut, v => doCut v
  | .rel, v => doRel v
  | .note n o, v => doNote n o v
  | .volfxLen p, v => doVolfxLen p v
  | .volfxMode p, v => doVolfxMode p v
  | .volfxIgn _, v => v
  | .dutyfx p, v => doDutyfx p v
  | .fxother _ _, v => v
  | .inst t, v =>
    match supportedType params.tags t with
    | some ty => { v with ih := some (handlerOf ty), instType := ty }
    | none => v
  | .seqduty d, v => { v with dutyPeriod := convertDuty v.instType d }
  | .tick P V, v => tickVoice P V v
  | .clr, v => v
  | .effstr, v => v
  | .cvd _, v => v

/-- What a command appends to the write trace. -/
def writesOf : Instr → Params → Voice → List SinkWrite
  | .tick P V, params, v => tickBurst params P V v
  | .clr, params, _ => clrBurst params
  | .rst, _, _ | .row _ _ _ _, _, _ | .empty, _, _ | .cut, _, _ | .rel, _, _ | .note _ _, _, _ | .volfxLen _, _, _
  | .volfxMode _, _, _ | .volfxIgn _, _, _ | .dutyfx _, _, _ | .fxother _ _, _, _ | .inst _, _, _ | .seqduty _, _, _
  | .effstr, _, _ | .cvd _, _, _ => []

/-- What a command appends to the results. -/
def resultsOf (params : Params) : Instr → Voice → List Result
  | .inst t, _ => [.ok (supportedType params.tags t).isSome]
  | .effstr, v => [.text (effectString v)]
  | .cvd d, v => [.duty (convertDuty v.instType d)]
  | .rst, _ | .row _ _ _ _, _ | .empty, _ | .cut, _ | .rel, _ | .note _ _, _ | .volfxLen _, _ | .volfxMode _, _
  | .volfxIgn _, _ | .dutyfx _, _ | .fxother _ _, _ | .seqduty _, _ | .tick _ _, _ | .clr, _ => []

/-- The state a command leaves. -/
def stateAfter (i : Instr) (s : State) : State where
  params := s.params
  voice := voiceAfter s.params i s.voice
  port := s.port
  trace := s.trace ++ writesOf i s.params s.voice
  results := s.results ++ resultsOf s.params i s.voice

/-- ONE COMMAND, SAID ONCE: it answers the next state with that voice, those writes and those results. -/
theorem exec_eq (i : Instr) (s : State) : exec i s = .next (stateAfter i s) := by
  cases i <;> simp only [exec, execRst, execRow, execEmpty, execCut, execRel, execNote, execVolfxLen, execVolfxMode,
      execVolfxIgn, execDutyfx, execFxother, execInst, execSeqduty, execTick, execClr, execEffstr, execCvd, stateAfter, voiceAfter,
      writesOf, resultsOf, emit_eq, State.setVoice, State.deliver, List.append_nil]
  split <;> simp_all

/-- The form in which a statement's hypothesis is used. -/
theorem eq_of_exec {i : Instr} {s t : State} (h : exec i s = .next t) : t = stateAfter i s := by
  rw [exec_eq] at h
  exact (Outcome.next.inj h).symm

@[simp] theorem stateAfter_params (i : Instr) (s : State) : (stateAfter i s).params = s.params := rfl
@[simp] theorem stateAfter_voice (i : Instr) (s : State) : (stateAfter i s).voice = voiceAfter s.params i s.voice := rfl
@[simp] theorem stateAfter_port (i : Instr) (s : State) : (stateAfter i s).port = s.port := rfl
@[simp] theorem stateAfter_trace (i : Instr) (s : State) :
    (stateAfter i s).trace = s.trace ++ writesOf i s.params s.voice := rfl
@[simp] theorem stateAfter_results (i : Instr) (s : State) :
    (stateAfter i s).results = s.results ++ resultsOf s.params i s.voice := rfl

/-- A run of commands, command by command. -/
@[simp] theorem execAll_nil (s : State) : execAll [] s = .next s := rfl

@[simp] theorem execAll_cons (i : Instr) (is : List Instr) (s : State) :
    execAll (i :: is) s = execAll is (stateAfter i s) := by
  simp [execAll, exec_eq]

/-- All a step can do: idle, run the decoded command, or be refused with the decoder's reason. -/
theorem step_cases (s : State) :
    (s.port = [] ∧ step s = .next s) ∨
    (∃ i rest, decode s.params.selectors s.port = .ok (i, rest) ∧ step s = .next (stateAfter i (s.setPort rest))) ∨
    (∃ r, s.port ≠ [] ∧ decode s.params.selectors s.port = .error r ∧ step s = .refused (.spellsNoCommand r)) := by
  unfold step runNext
  cases hp : s.port with
  | nil => simp
  | cons w ws =>
    cases hd : decode s.params.selectors (w :: ws) with
    | error r => exact .inr (.inr ⟨r, by simp, rfl, by simp [hd]⟩)
    | ok q =>
      obtain ⟨i, rest⟩ := q
      exact .inr (.inl ⟨i, rest, rfl, by simp [hd, exec_eq]⟩)

/-- A run of no steps is where it starts. -/
theorem run_zero (s : State) : Host.Core.run Sys2Proof.core 0 s = .next s := rfl

/-- A run of any machine whose first step answers a next state goes on from there. -/
theorem run_succ_of_core (M : Host.Core) (k : Nat) (s t : M.State) (h : M.step s = .next t) :
    M.run (k + 1) s = M.run k t := by
  simp [Host.Core.run, h]

/-- A run whose first step answers a next state goes on from there. -/
theorem run_succ {s t : State} (k : Nat) (h : step s = .next t) :
    Host.Core.run Sys2Proof.core (k + 1) s = Host.Core.run Sys2Proof.core k t :=
  run_succ_of_core Sys2Proof.core k s t h

/-- The three bursts of a tick (43_tick_sequencer.md R151). -/
theorem tickBurst_silent {params : Params} {P : BitVec 11} {V : BitVec 4} {v : Voice} (h : v.gate = false) :
    tickBurst params P V v = [(addrEnable, enableMask), (addrCtrl params, silence)] := by
  simp [tickBurst, h]

theorem tickBurst_short {params : Params} {P : BitVec 11} {V : BitVec 4} {v : Voice} (h : v.gate = true)
    (hp : v.perloDue params.periodSplit P = false) :
    tickBurst params P V v =
      [(addrEnable, enableMask),
       (addrCtrl params, ctrlByte (dutyCycle v.dutyPeriod) v.envelopeLoop v.hardwareEnvelope V),
       (addrPerhi params, byteA params.periodSplit P)] := by
  simp [tickBurst, h, hp]

theorem tickBurst_full {params : Params} {P : BitVec 11} {V : BitVec 4} {v : Voice} (h : v.gate = true)
    (hp : v.perloDue params.periodSplit P = true) :
    tickBurst params P V v =
      [(addrEnable, enableMask),
       (addrCtrl params, ctrlByte (dutyCycle v.dutyPeriod) v.envelopeLoop v.hardwareEnvelope V),
       (addrPerhi params, byteA params.periodSplit P),
       (addrPerlo params, perloByte params.periodSplit P v.lengthCounter)] := by
  simp [tickBurst, h, hp]

/-- Distinct addresses, pair by pair. -/
theorem distinctAddrs_iff (params : Params) : distinctAddrs params ↔
    addrEnable ≠ addrCtrl params ∧ addrEnable ≠ addrPerhi params ∧ addrEnable ≠ addrPerlo params ∧
    addrCtrl params ≠ addrPerhi params ∧ addrCtrl params ≠ addrPerlo params ∧ addrPerhi params ≠ addrPerlo params := by
  simp [distinctAddrs, sinkAddrs, and_assoc]

/-- The default parameters are as the spec wants them (00_scope.md R6; 93_implementation_defined.md U7). -/
theorem legalParams_default (ch : Channel) (split : PeriodSplit) : legalParams (defaultParams ch split) := by
  revert ch; cases split <;> decide

/-- A run without a full tick, command by command. -/
@[simp] theorem noFullTick_nil (s : State) : noFullTick [] s = true := rfl

@[simp] theorem noFullTick_cons (i : Instr) (is : List Instr) (s : State) :
    noFullTick (i :: is) s = (!isFullTick i s && noFullTick is (stateAfter i s)) := by
  simp [noFullTick, exec_eq]

/-- The last write of a trace is what the image holds at its address. -/
theorem imageOf_append_read_same (tr : List SinkWrite) (a : Addr) (v : Byte) :
    (imageOf (tr ++ [(a, v)])).read a.toNat = some v := by
  rw [imageOf_append_read, if_pos rfl]

/-- Where a command sends its writes: to the four addresses of the voice (20_memory.md R44). -/
theorem writesOf_addrs {i : Instr} {params : Params} {v : Voice} {w : SinkWrite} (h : w ∈ writesOf i params v) :
    w.1 ∈ sinkAddrs params := by
  cases i with
  | tick P V =>
    simp only [writesOf, tickBurst] at h
    split_ifs at h <;> simp at h
    · rcases h with rfl | rfl | rfl | rfl <;> simp [sinkAddrs]
    · rcases h with rfl | rfl | rfl <;> simp [sinkAddrs]
    · rcases h with rfl | rfl <;> simp [sinkAddrs]
  | clr =>
    simp only [writesOf, clrBurst, List.mem_cons, List.not_mem_nil, or_false] at h
    rcases h with rfl | rfl | rfl <;> simp [sinkAddrs]
  | _ => simp [writesOf] at h

/-- Every type a supported operand names is one a voice holds with a handler. -/
theorem supportedType_ne_none {tags : TypeTags} {t : BitVec 3} {ty : InstType} (h : supportedType tags t = some ty) :
    ty ≠ .none := by
  unfold supportedType at h
  split_ifs at h <;> cases h <;> decide

/-- An injective numbering names each supported type by its tag (92_eei_decisions.md D13). -/
theorem supportedType_tag {tags : TypeTags} (h : distinctTags tags) (ty : InstType) :
    supportedType tags (ty.tag tags) = if ty = .none then none else some ty := by
  simp only [distinctTags, List.nodup_cons, List.mem_cons, List.not_mem_nil, or_false, not_or] at h
  obtain ⟨⟨a, b, c, d⟩, ⟨e, f, g⟩, ⟨i, j⟩, k, -⟩ := h
  cases ty <;> simp [supportedType, InstType.tag, a, b, c, d, Ne.symm e, Ne.symm f, Ne.symm g, Ne.symm i, Ne.symm j, Ne.symm k]

/-- A number that is no supported type's tag names none (42_instrument_and_duty.md R126). -/
theorem supportedType_eq_none {tags : TypeTags} {t : BitVec 3} :
    supportedType tags t = none ↔ t ≠ tags.t2A03 ∧ t ≠ tags.vrc6 ∧ t ≠ tags.n163 ∧ t ≠ tags.s5b := by
  unfold supportedType
  split_ifs <;> simp_all

/-- The columns of a row write the envelope and duty registers alone (40_note_commands.md R95). -/
theorem doColumns_frame (sel : Selectors) (fx : List Fx) (v : Voice) :
    (doColumns sel fx v).period = v.period ∧ (doColumns sel fx v).volume = v.volume ∧
    (doColumns sel fx v).lastPeriod = v.lastPeriod ∧ (doColumns sel fx v).volCeil = v.volCeil ∧
    (doColumns sel fx v).instType = v.instType ∧ (doColumns sel fx v).ih = v.ih ∧
    (doColumns sel fx v).gate = v.gate ∧ (doColumns sel fx v).releasing = v.releasing := by
  induction fx generalizing v with
  | nil => simp
  | cons c fx ih =>
    have h := ih (doFx sel c v)
    rw [doColumns_cons]
    rcases doFx_cases sel c v with ⟨-, -, e⟩ | ⟨-, -, -, e⟩ | ⟨-, e⟩ | e <;> rw [e] at h ⊢ <;> simpa using h

end Sys2Proof.Machine
end

