-- ==== Sys2Proof/Laws/Pair.lean ====
section
/-! SUPPORT. Two voices over one sink: what a turn of one voice does, said once, and the runs and bursts turn by turn
(20_memory.md R48, R50; 60_exceptions.md R204). -/

namespace Sys2Proof.Machine

/-- The voice that was replaced is the new one. -/
theorem get_set_same (p : Pair) (c : Channel) (s : State) (sink : List SinkWrite) :
    ({ p.set c s with sink := sink } : Pair).get c = s := by
  match c with
  | 0 => rfl
  | 1 => rfl

/-- The other voice is as it was. -/
theorem get_set_other (p : Pair) (c d : Channel) (s : State) (sink : List SinkWrite) (h : d ≠ c) :
    ({ p.set c s with sink := sink } : Pair).get d = p.get d := by
  match c, d with
  | 0, 0 => exact absurd rfl h
  | 1, 1 => exact absurd rfl h
  | 0, 1 => rfl
  | 1, 0 => rfl

/-- A turn: the voice takes its step, and the sink receives that step's burst. -/
theorem stepVoice_cases {c : Channel} {p q : Pair} (h : p.stepVoice c = .next q) :
    ∃ t, step (p.get c) = .next t ∧ q = { p.set c t with sink := p.sink ++ burstBetween (p.get c) t } := by
  unfold Pair.stepVoice at h
  cases e : step (p.get c) <;> rw [e] at h <;> cases h
  exact ⟨_, rfl, rfl⟩

/-- A step appends to the trace and keeps the parameters. -/
theorem step_appends {s t : State} (h : step s = .next t) :
    t.params = s.params ∧ t.trace = s.trace ++ burstBetween s t := by
  rcases step_cases s with ⟨-, e⟩ | ⟨i, rest, -, e⟩ | ⟨r, -, -, e⟩ <;> rw [h] at e <;> cases e
  · simp [burstBetween]
  · simp [burstBetween]

/-- The bursts of the next steps, step by step. -/
theorem stepBursts_succ {s t : State} (n : Nat) (h : step s = .next t) :
    stepBursts (n + 1) s = burstBetween s t :: stepBursts n t := by
  simp [stepBursts, h]

@[simp] theorem turnsOf_nil (c : Channel) : turnsOf c [] [] = [] := rfl

theorem turnsOf_same (c : Channel) (cs : List Channel) (b : List SinkWrite) (bs : List (List SinkWrite)) :
    turnsOf c (c :: cs) (b :: bs) = b :: turnsOf c cs bs := by
  simp [turnsOf]

theorem turnsOf_other {c d : Channel} (cs : List Channel) (b : List SinkWrite) (bs : List (List SinkWrite)) (h : d ≠ c) :
    turnsOf c (d :: cs) (b :: bs) = turnsOf c cs bs := by
  simp [turnsOf, h]

end Sys2Proof.Machine
end

