-- ==== Sys2Proof/Laws/PerInstr.lean ====
section
/-! SUPPORT. Facts about every command as syntax, one lemma per constructor: the first word of a command carries its
opcode, and a `ROW` alone has more words, one per column (30_encoding.md R60, R70, R73). -/

namespace Sys2Proof.Laws.HeadWord

/-- The opcode of a command (30_encoding.md R70). -/
def opOf : Instr → Op
  | .rst => .rst
  | .row _ _ _ _ => .row
  | .empty => .empty
  | .cut => .cut
  | .rel => .rel
  | .note _ _ => .note
  | .volfxLen _ | .volfxMode _ | .volfxIgn _ | .dutyfx _ | .fxother _ _ => .fx
  | .inst _ => .inst
  | .seqduty _ => .seqduty
  | .tick _ _ => .tick
  | .clr => .clr
  | .effstr => .effstr
  | .cvd _ => .cvd

/-- How many columns a command carries. -/
def columnsOf : Instr → Nat
  | .row _ _ _ fx => fx.length
  | .rst | .empty | .cut | .rel | .note _ _ | .volfxLen _ | .volfxMode _ | .volfxIgn _ | .dutyfx _ | .fxother _ _
  | .inst _ | .seqduty _ | .tick _ _ | .clr | .effstr | .cvd _ => 0

/-- The first word carries the command's opcode, and as many words follow it as the command has columns,
whatever the selectors are. -/
def Statement (i : Instr) : Prop :=
  ∀ sel : Selectors, ∃ w ws, encode sel i = w :: ws ∧ opcodeOf w = (opOf i).byte ∧ ws.length = columnsOf i

theorem rst : Statement .rst := fun _ => ⟨_, _, rfl, by simp [opOf], rfl⟩
theorem row (k : RowKind) (n : BitVec 4) (o : BitVec 3) (fx : List Fx) : Statement (.row k n o fx) :=
  fun _ => ⟨_, _, rfl, by simp [opOf], by simp [columnsOf]⟩
theorem empty : Statement .empty := fun _ => ⟨_, _, rfl, by simp [opOf], rfl⟩
theorem cut : Statement .cut := fun _ => ⟨_, _, rfl, by simp [opOf], rfl⟩
theorem rel : Statement .rel := fun _ => ⟨_, _, rfl, by simp [opOf], rfl⟩
theorem note (n : BitVec 4) (o : BitVec 3) : Statement (.note n o) := fun _ => ⟨_, _, rfl, by simp [opOf], rfl⟩
theorem volfxLen (p : BitVec 5) : Statement (.volfxLen p) := fun _ => ⟨_, _, rfl, by simp [opOf], rfl⟩
theorem volfxMode (p : BitVec 2) : Statement (.volfxMode p) := fun _ => ⟨_, _, rfl, by simp [opOf], rfl⟩
theorem volfxIgn (p : Byte) : Statement (.volfxIgn p) := fun _ => ⟨_, _, rfl, by simp [opOf], rfl⟩
theorem dutyfx (p : Byte) : Statement (.dutyfx p) := fun _ => ⟨_, _, rfl, by simp [opOf], rfl⟩
theorem fxother (e p : Byte) : Statement (.fxother e p) := fun _ => ⟨_, _, rfl, by simp [opOf], rfl⟩
theorem inst (t : BitVec 3) : Statement (.inst t) := fun _ => ⟨_, _, rfl, by simp [opOf], rfl⟩
theorem seqduty (d : Byte) : Statement (.seqduty d) := fun _ => ⟨_, _, rfl, by simp [opOf], rfl⟩
theorem tick (P : BitVec 11) (V : BitVec 4) : Statement (.tick P V) := fun _ => ⟨_, _, rfl, by simp [opOf], rfl⟩
theorem clr : Statement .clr := fun _ => ⟨_, _, rfl, by simp [opOf], rfl⟩
theorem effstr : Statement .effstr := fun _ => ⟨_, _, rfl, by simp [opOf], rfl⟩
theorem cvd (d : Byte) : Statement (.cvd d) := fun _ => ⟨_, _, rfl, by simp [opOf], rfl⟩

end Sys2Proof.Laws.HeadWord
end

