-- ==== Sys2Proof/Tests/Slice0.lean ====
section
/-! SUPPORT. Tests of the model's own: the well-formedness smoke, words written out from 30_encoding.md and
95_test_vectors.md, one step per instruction against the vectors of 95_test_vectors.md (named in each comment), and for every
statement with hypotheses a witness that meets them. -/

namespace Sys2Proof.Tests

open Sys2Proof.Machine
open Host (Outcome)

/-! ## Helpers -/

/-- The instruction and the rest a stream decodes to. -/
def decoded (ws : List Word) : Option (Instr × List Word) :=
  match decode defaultSelectors ws with
  | .ok r => some r
  | .error _ => none

/-- Why a stream is refused. -/
def reason (ws : List Word) : Option DecodeError :=
  match decode defaultSelectors ws with
  | .ok _ => none
  | .error r => some r

/-- The state an outcome goes on to. -/
def nextOf (o : Outcome State Fault Refusal) : Option State :=
  match o with
  | .next t => some t
  | .fault _ => none
  | .refused _ => none

/-- The reason a step is refused for. -/
def refusalOf (o : Outcome State Fault Refusal) : Option Refusal :=
  match o with
  | .next _ => none
  | .fault _ => none
  | .refused r => some r

/-- The voice after one command. -/
def voiceOf (i : Instr) (v : Voice) : Option Voice := (nextOf (exec i { State.reset with voice := v })).map (·.voice)

/-- A voice in an envelope mode, with a reset pending or not. -/
def inMode (loop hw rE : Bool) : Voice :=
  { Voice.reset with envelopeLoop := loop, hardwareEnvelope := hw, resetEnvelope := rE }

/-- Mode, length and pending reset after one command. -/
def envAfter (i : Instr) (v : Voice) : Option (Bool × Bool × BitVec 5 × Bool) :=
  (voiceOf i v).map (fun v => (v.envelopeLoop, v.hardwareEnvelope, v.lengthCounter, v.resetEnvelope))

/-- The start state of 95_test_vectors.md section 2.2. -/
def noteStart (gate rel loop hw : Bool) : Voice :=
  { inMode loop hw false with
    dutyDefault := 0x02, dutyPeriod := 0x01, volCeil := 0x0A, period := 0x123, gate := gate, releasing := rel }

/-- Gate, releasing and pending reset after one command. -/
def noteAfter (i : Instr) (v : Voice) : Option (Bool × Bool × Bool) :=
  (voiceOf i v).map (fun v => (v.gate, v.releasing, v.resetEnvelope))

/-- A gated-on machine of 95_test_vectors.md section 2.5. -/
def sounding (ch : Channel) (split : PeriodSplit) (duty : Byte) (loop hw : Bool) (len : BitVec 5) (last : BitVec 16)
    (rE : Bool) : State :=
  { State.reset with
    params := defaultParams ch split
    voice := { inMode loop hw rE with gate := true, dutyPeriod := duty, lengthCounter := len, lastPeriod := last } }

/-- The burst, the new `lastPeriod` and the pending reset of one tick. -/
def tickOf (P : BitVec 11) (V : BitVec 4) (s : State) : Option (List SinkWrite × BitVec 16 × Bool) :=
  (nextOf (exec (.tick P V) s)).map (fun t => (t.trace, t.voice.lastPeriod, t.voice.resetEnvelope))

/-! ## Well-formedness: each check refuses an ill-formed term -/

theorem test_wellFormed_row_columns :
    Instr.wellFormed defaultSelectors (.row .pitched 9 3 (List.replicate 7 ⟨0, 0⟩)) = true ∧
    Instr.wellFormed defaultSelectors (.row .pitched 9 3 (List.replicate 8 ⟨0, 0⟩)) = false := by decide

theorem test_wellFormed_ignored_param :
    Instr.wellFormed defaultSelectors (.volfxIgn 0x20) = true ∧ Instr.wellFormed defaultSelectors (.volfxIgn 0xDF) = true ∧
    Instr.wellFormed defaultSelectors (.volfxIgn 0xE4) = true ∧ Instr.wellFormed defaultSelectors (.volfxIgn 0x1F) = false ∧
    Instr.wellFormed defaultSelectors (.volfxIgn 0xE0) = false ∧
    Instr.wellFormed defaultSelectors (.volfxIgn 0xE3) = false := by decide

theorem test_wellFormed_other_selector :
    Instr.wellFormed defaultSelectors (.fxother 0x44 0x10) = true ∧
    Instr.wellFormed defaultSelectors (.fxother 0x45 0x20) = false ∧
    Instr.wellFormed defaultSelectors (.fxother 0x56 0x00) = false := by decide

/-- The duty effect has no words of its own where its selector is the volume effect's. -/
theorem test_wellFormed_duty_selector :
    Instr.wellFormed defaultSelectors (.dutyfx 0xFF) = true ∧ Instr.wellFormed ⟨0x45, 0x45⟩ (.dutyfx 0xFF) = false := by decide

/-! ## Words written out from the spec's encodings (95_test_vectors.md section 2.1) -/

/-- C1, C8, C9, C10, C22, C23. -/
theorem test_decode_formatZ :
    decoded [0x00000000] = some (.rst, []) ∧ decoded [0x02000000] = some (.empty, []) ∧
    decoded [0x03000000] = some (.cut, []) ∧ decoded [0x04000000] = some (.rel, []) ∧
    decoded [0x0A000000] = some (.clr, []) ∧ decoded [0x0B000000] = some (.effstr, []) := by decide

/-- C2 to C6. -/
theorem test_decode_row :
    decoded [0x01000000] = some (.row .empty 0 0 [], []) ∧
    decoded [0x01658000] = some (.row .pitched 9 3 [], []) ∧
    decoded [0x01659000, 0x06004510, 0x03000000] = some (.row .pitched 9 3 [⟨0x45, 0x10⟩], [0x03000000]) ∧
    decoded [0x01800000] = some (.row .noteOff 0 0 [], []) ∧
    decoded [0x01C02000, 0x06005601, 0x060045E2] = some (.row .release 0 0 [⟨0x56, 0x01⟩, ⟨0x45, 0xE2⟩], []) := by
  decide

/-- C7, the longest command. -/
theorem test_decode_row_longest :
    decoded (0x017FF000 :: List.replicate 7 0x06000000) = some (.row .pitched 15 7 (List.replicate 7 ⟨0, 0⟩), []) := by
  decide

/-- C11, C18, C19, C24. -/
theorem test_decode_note_inst_duty :
    decoded [0x05258000] = some (.note 9 3, []) ∧ decoded [0x07000006] = some (.inst 6, []) ∧
    decoded [0x08000047] = some (.seqduty 0x47, []) ∧ decoded [0x0C000081] = some (.cvd 0x81, []) := by decide

/-- C12 to C17. -/
theorem test_decode_fx :
    decoded [0x0600451F] = some (.volfxLen 0x1F, []) ∧ decoded [0x06004520] = some (.volfxIgn 0x20, []) ∧
    decoded [0x060045E3] = some (.volfxMode 3, []) ∧ decoded [0x060045E4] = some (.volfxIgn 0xE4, []) ∧
    decoded [0x060056FF] = some (.dutyfx 0xFF, []) ∧ decoded [0x06004410] = some (.fxother 0x44 0x10, []) := by decide

/-- C20, C21. -/
theorem test_decode_tick :
    decoded [0x09007FFF] = some (.tick 0x7FF 0xF, []) ∧ decoded [0x09000FDF] = some (.tick 0x0FD 0xF, []) := by decide

/-- X1 to X10. -/
theorem test_decode_refused :
    reason [0x0D000000] = some .unassignedOpcode ∧ reason [0xFF000000] = some .unassignedOpcode ∧
    reason [0x00000001] = some .nonZeroMustBeZero ∧ reason [0x09008000] = some .nonZeroMustBeZero ∧
    reason [0x07000008] = some .nonZeroMustBeZero ∧ reason [0x05400000] = some .nonZeroMustBeZero ∧
    reason [0x06010000] = some .nonZeroMustBeZero ∧ reason [0x01001000, 0x09000000] = some .badExtension ∧
    reason [0x01001000] = some .missingExtension ∧ reason [0x01000800] = some .nonZeroMustBeZero := by decide

/-- The same words from the encoder. -/
theorem test_encode :
    [Instr.row .release 0 0 [⟨0x56, 0x01⟩, ⟨0x45, 0xE2⟩], .note 9 3, .volfxLen 0x1F, .volfxMode 3, .inst 6, .seqduty 0x47,
      .tick 0x0FD 0xF, .cvd 0x81].map (encode defaultSelectors) =
    [[0x01C02000, 0x06005601, 0x060045E2], [0x05258000], [0x0600451F], [0x060045E3], [0x07000006], [0x08000047],
      [0x09000FDF], [0x0C000081]] := by decide

/-! ## The host's numbering, and a step through the port -/

theorem test_decodeTableWord :
    decodeTableWord 32 0x060045E1 = some (.volfxMode 1) ∧ decodeTableWord 32 0x01659000 = none ∧
    decodeTableWord 64 0x0600451001659000 = some (.row .pitched 9 3 [⟨0x45, 0x10⟩]) := by decide

theorem test_withFetchWord_runs_it_first :
    (nextOf (step (State.reset.withFetchWord 32 0x09000FDF))).map (fun t => (t.port, t.trace)) =
      some ([], [(0x5015, 0x03), (0x5000, 0x30)]) := by decide

/-- X1 and X3 at the step; an empty port idles (70_reset_and_hazards.md R217). -/
theorem test_step_refuses_and_idles :
    refusalOf (step (State.reset.withFetchWord 32 0x0D000000)) = some (.spellsNoCommand .unassignedOpcode) ∧
    refusalOf (step (State.reset.withFetchWord 32 0x00000001)) = some (.spellsNoCommand .nonZeroMustBeZero) ∧
    nextOf (step State.reset) = some State.reset := by decide

/-! ## One step per instruction (95_test_vectors.md; the free note table never has a value here) -/

/-- N1 to N8 without the note table: gate, releasing, pending reset. -/
theorem test_row_by_kind :
    noteAfter (.row .empty 0 0 []) (noteStart true true false true) = some (true, true, false) ∧
    noteAfter (.row .pitched 9 3 []) (noteStart false true true false) = some (true, false, false) ∧
    noteAfter (.row .pitched 9 3 []) (noteStart false false true true) = some (true, false, true) ∧
    noteAfter (.row .pitched 9 3 []) (noteStart true false false false) = some (true, false, true) ∧
    noteAfter (.row .pitched 9 3 []) (noteStart true false false true) = some (true, false, true) ∧
    noteAfter (.row .noteOff 0 0 []) (noteStart true true false false) = some (false, false, false) ∧
    noteAfter (.row .release 0 0 []) (noteStart true false false false) = some (true, true, false) ∧
    noteAfter (.row .release 0 0 []) (noteStart false true true false) = some (false, true, false) := by decide

/-- N13 to N16 and N18: columns first, in order, then the hook. -/
theorem test_row_columns :
    envAfter (.row .pitched 9 3 [⟨0x45, 0xE0⟩]) (inMode false false false) = some (true, false, 1, true) ∧
    envAfter (.row .pitched 9 3 [⟨0x45, 0xE0⟩]) (inMode true true false) = some (true, false, 1, false) ∧
    envAfter (.row .pitched 9 3 [⟨0x45, 0x10⟩]) (inMode true false false) = some (false, false, 0x10, true) ∧
    envAfter (.row .empty 0 0 [⟨0x45, 0x05⟩, ⟨0x45, 0x07⟩]) (inMode true false false) = some (false, false, 0x07, true) ∧
    envAfter (.row .noteOff 0 0 [⟨0x45, 0xE3⟩]) (inMode true false false) = some (false, true, 1, true) := by decide

/-- S1: the whole state, the pending reset untouched. -/
theorem test_rst :
    voiceOf .rst
      { period := 0x7FF, volume := 0xF, dutyPeriod := 0xFF, dutyDefault := 0xFF, lastPeriod := 0x07FF, lengthCounter := 0x1F,
        volCeil := 0x0F, instType := .s5b, ih := some ⟨0x0F, 0x40⟩, gate := true, hardwareEnvelope := true,
        envelopeLoop := false, resetEnvelope := true, releasing := true } =
      some { Voice.reset with resetEnvelope := true } := by decide

/-- S2. -/
theorem test_rst_at_reset : nextOf (exec .rst State.reset) = some State.reset := by decide

/-- N9. -/
theorem test_empty : voiceOf .empty (noteStart true true false true) = some (noteStart true true false true) := by decide

/-- N10. -/
theorem test_cut : noteAfter .cut (noteStart true true false true) = some (false, true, false) := by decide

/-- N11. -/
theorem test_rel : noteAfter .rel (noteStart true false true false) = some (true, true, false) := by decide

/-- N12: neither gate nor releasing nor the hook. -/
theorem test_note_flags : noteAfter (.note 9 3) (noteStart false true false false) = some (false, true, false) := by decide

/-- N12: the registers; the period is the table's, whatever that is. -/
theorem test_note_registers :
    (voiceOf (.note 9 3) (noteStart false true false false)).map (fun v => (v.period, v.dutyPeriod, v.volCeil)) =
      some (Config.noteTable 3 9, 0x02, 0x0F) := rfl

/-- V2, V16, V18. -/
theorem test_volfxLen :
    envAfter (.volfxLen 0x1F) Voice.reset = some (false, false, 0x1F, true) ∧
    envAfter (.volfxLen 0x08) (inMode true true false) = some (false, true, 0x08, true) ∧
    envAfter (.volfxLen 0x10) (inMode false false false) = some (false, false, 0x10, true) := by decide

/-- V6 to V9. -/
theorem test_volfxMode :
    envAfter (.volfxMode 0) Voice.reset = some (true, false, 1, true) ∧
    envAfter (.volfxMode 1) Voice.reset = some (true, true, 1, true) ∧
    envAfter (.volfxMode 2) Voice.reset = some (false, false, 1, true) ∧
    envAfter (.volfxMode 3) Voice.reset = some (false, true, 1, true) := by decide

/-- V13, V14, V15, V17: the old mode decides, and a pending reset is kept. -/
theorem test_volfxMode_old_mode :
    envAfter (.volfxMode 0) (inMode true true false) = some (true, false, 1, false) ∧
    envAfter (.volfxMode 3) (inMode true true false) = some (false, true, 1, false) ∧
    envAfter (.volfxMode 1) (inMode true true true) = some (true, true, 1, true) ∧
    envAfter (.volfxMode 1) (inMode false true false) = some (true, true, 1, true) := by decide

/-- V3, V5, V10. -/
theorem test_volfxIgn :
    voiceOf (.volfxIgn 0x20) Voice.reset = some Voice.reset ∧ voiceOf (.volfxIgn 0xDF) Voice.reset = some Voice.reset ∧
    voiceOf (.volfxIgn 0xE4) Voice.reset = some Voice.reset := by decide

/-- V12. -/
theorem test_fxother : voiceOf (.fxother 0x00 0x10) Voice.reset = some Voice.reset := by decide

/-- V22: unmasked, in both registers. -/
theorem test_dutyfx :
    voiceOf (.dutyfx 0xFF) Voice.reset = some { Voice.reset with dutyDefault := 0xFF, dutyPeriod := 0xFF } := by decide

/-- I7: tag, handler and result. -/
theorem test_inst_s5b :
    (nextOf (exec (.inst 6) State.reset)).map (fun t => (t.voice.instType, t.voice.ih, t.results)) =
      some (.s5b, some ⟨0x0F, 0x40⟩, [.ok true]) := by decide

/-- I9. -/
theorem test_inst_fails : nextOf (exec (.inst 3) State.reset) = some { State.reset with results := [.ok false] } := by decide

/-- D5, D1. -/
theorem test_seqduty :
    voiceOf (.seqduty 0x47) { Voice.reset with instType := .s5b } =
      some { Voice.reset with instType := .s5b, dutyPeriod := 0x02 } ∧
    voiceOf (.seqduty 0x47) Voice.reset = some { Voice.reset with dutyPeriod := 0x47 } := by decide

/-- D4, D5. -/
theorem test_cvd :
    (nextOf (exec (.cvd 0xFF) { State.reset with voice := { Voice.reset with instType := .n163 } })).map (·.results) =
      some [.duty 0xFF] ∧
    (nextOf (exec (.cvd 0xFF) { State.reset with voice := { Voice.reset with instType := .s5b } })).map (·.results) =
      some [.duty 0x02] := by decide

/-- D3: entry 7 of the free table. -/
theorem test_cvd_vrc6 :
    (nextOf (exec (.cvd 0x47) { State.reset with voice := { Voice.reset with instType := .vrc6 } })).map (·.results) =
      some [.duty (Config.vrc6DutyTable 7)] := rfl

/-- T1 to T10, `AS_WRITTEN`. -/
theorem test_tick_as_written :
    tickOf 0x7FF 0xF { State.reset with voice := { inMode false true true with lastPeriod := 0x0123 } } =
      some ([(0x5015, 0x03), (0x5000, 0x30)], 0xFFFF, false) ∧
    tickOf 0x000 0x0 (sounding 0 .asWritten 0x03 true false 0x00 0x0000 false) =
      some ([(0x5015, 0x03), (0x5000, 0xF0), (0x5002, 0x00)], 0x0000, false) ∧
    tickOf 0x7FF 0xF (sounding 0 .asWritten 0xFF false true 0x1F 0x0123 false) =
      some ([(0x5015, 0x03), (0x5000, 0xCF), (0x5002, 0x07), (0x5003, 0xFF)], 0x07FF, false) ∧
    tickOf 0x200 0x9 (sounding 1 .asWritten 0x04 true true 0x1F 0x0100 false) =
      some ([(0x5015, 0x03), (0x5004, 0x29), (0x5006, 0x02)], 0x0200, false) ∧
    tickOf 0x0FD 0x5 (sounding 0 .asWritten 0x01 false false 0x10 0x00FD true) =
      some ([(0x5015, 0x03), (0x5000, 0x55), (0x5002, 0x00), (0x5003, 0xFD)], 0x00FD, false) ∧
    tickOf 0x005 0x1 (sounding 0 .asWritten 0x00 true false 0x0A 0xFFFF false) =
      some ([(0x5015, 0x03), (0x5000, 0x31), (0x5002, 0x00), (0x5003, 0x55)], 0x0005, false) ∧
    tickOf 0x7FF 0xF (sounding 0 .asWritten 0x02 true false 0x01 0xFFFF false) =
      some ([(0x5015, 0x03), (0x5000, 0xBF), (0x5002, 0x07)], 0x07FF, false) ∧
    tickOf 0x7FF 0xF (sounding 0 .asWritten 0x02 true false 0x01 0xFFFF true) =
      some ([(0x5015, 0x03), (0x5000, 0xBF), (0x5002, 0x07), (0x5003, 0xFF)], 0x07FF, false) ∧
    tickOf 0x2FD 0x0 (sounding 1 .asWritten 0x02 true false 0x00 0x01FD false) =
      some ([(0x5015, 0x03), (0x5004, 0xB0), (0x5006, 0x02)], 0x02FD, false) ∧
    tickOf 0x0EF 0xF (sounding 0 .asWritten 0x01 true false 0x02 0xFFFF false) =
      some ([(0x5015, 0x03), (0x5000, 0x7F), (0x5002, 0x00), (0x5003, 0xFF)], 0x00EF, false) := by
  and_intros <;> decide

/-- T3, T4, T6, T7, T9, T10, `SWAPPED`. -/
theorem test_tick_swapped :
    tickOf 0x7FF 0xF (sounding 0 .swapped 0xFF false true 0x1F 0x0123 false) =
      some ([(0x5015, 0x03), (0x5000, 0xCF), (0x5002, 0xFF), (0x5003, 0xFF)], 0x07FF, false) ∧
    tickOf 0x200 0x9 (sounding 1 .swapped 0x04 true true 0x1F 0x0100 false) =
      some ([(0x5015, 0x03), (0x5004, 0x29), (0x5006, 0x00), (0x5007, 0xFA)], 0x0200, false) ∧
    tickOf 0x005 0x1 (sounding 0 .swapped 0x00 true false 0x0A 0xFFFF false) =
      some ([(0x5015, 0x03), (0x5000, 0x31), (0x5002, 0x05), (0x5003, 0x50)], 0x0005, false) ∧
    tickOf 0x7FF 0xF (sounding 0 .swapped 0x02 true false 0x01 0xFFFF false) =
      some ([(0x5015, 0x03), (0x5000, 0xBF), (0x5002, 0xFF), (0x5003, 0x0F)], 0x07FF, false) ∧
    tickOf 0x2FD 0x0 (sounding 1 .swapped 0x02 true false 0x00 0x01FD false) =
      some ([(0x5015, 0x03), (0x5004, 0xB0), (0x5006, 0xFD), (0x5007, 0x02)], 0x02FD, false) ∧
    tickOf 0x0EF 0xF (sounding 0 .swapped 0x01 true false 0x02 0xFFFF false) =
      some ([(0x5015, 0x03), (0x5000, 0x7F), (0x5002, 0xEF), (0x5003, 0x10)], 0x00EF, false) := by
  and_intros <;> decide

/-- S3, S4: order and addresses; the voice unchanged. -/
theorem test_clr :
    nextOf (exec .clr State.reset) = some { State.reset with trace := [(0x5000, 0x00), (0x5002, 0x00), (0x5003, 0x00)] } ∧
    nextOf (exec .clr { State.reset with params := defaultParams 1 .asWritten }) =
      some { State.reset with
        params := defaultParams 1 .asWritten, trace := [(0x5004, 0x00), (0x5006, 0x00), (0x5007, 0x00)] } := by
  decide

/-- R44: the three addresses are parameters a model may override; 0x5015 is not. -/
def overridden : AddressMap := ⟨⟨0x4000, 0x4002, 0x4003⟩, ⟨0x4004, 0x4006, 0x4007⟩⟩

theorem test_clr_overridden_addresses :
    nextOf (exec .clr { State.reset with params := { defaultParams 1 .asWritten with addrs := overridden } }) =
      some { State.reset with
        params := { defaultParams 1 .asWritten with addrs := overridden }
        trace := [(0x4004, 0x00), (0x4006, 0x00), (0x4007, 0x00)] } := by decide

/-- S5, S6, S8, S9: "", " EE1", " E0A EE2", " E1F EE3", each character by its ASCII code. -/
theorem test_effstr :
    effectString { inMode true false false with lengthCounter := 0x1F } = [] ∧
    effectString { inMode true true false with lengthCounter := 0x1F } = [32, 69, 69, 49] ∧
    effectString { inMode false false false with lengthCounter := 0x0A } = [32, 69, 48, 65, 32, 69, 69, 50] ∧
    effectString { inMode false true false with lengthCounter := 0x1F } = [32, 69, 49, 70, 32, 69, 69, 51] := by decide

/-- S10 through the status port. -/
theorem test_effstr_delivers :
    (nextOf (exec .effstr { State.reset with voice := inMode false true false })).map (fun t => (t.results, t.trace)) =
      some ([.text [32, 69, 48, 49, 32, 69, 69, 51]], []) := by decide

/-! ## Other selectors and type numbers (93_implementation_defined.md U10) -/

/-- The machine after power-on with the two selectors exchanged and the types numbered in reverse. -/
def renumbered : State :=
  { State.reset with
    params := { State.reset.params with selectors := ⟨0x56, 0x45⟩, tags := ⟨7, 6, 5, 4, 3⟩ } }

/-- The rows of spec/opcode_table.json whose match a selector decides. -/
theorem test_opcodeTable_selector_rows :
    ((opcodeTable defaultSelectors).filter (fun r => r.pat &&& 0xFF000000 == 0x06000000)).map (fun r => (r.pat, r.mask)) =
      [(0x06004500, 0xFFFFFFE0), (0x060045E0, 0xFFFFFFFC), (0x06004500, 0xFFFFFF00), (0x06005600, 0xFFFFFF00),
       (0x06000000, 0xFFFF0000)] := by decide

/-- The same word is the other effect, as a command and as a column. -/
theorem test_other_selectors :
    (nextOf (step (renumbered.withFetchWord 32 0x06005610))).map (fun t => (t.voice.lengthCounter, t.voice.dutyPeriod)) =
      some (0x10, 0) ∧
    (nextOf (exec (.row .empty 0 0 [⟨0x45, 0x10⟩]) renumbered)).map (fun t => (t.voice.lengthCounter, t.voice.dutyPeriod)) =
      some (1, 0x10) := by decide

/-- 3 names S5B, and 1 no supported type. -/
theorem test_other_type_numbers :
    (nextOf (exec (.inst 3) renumbered)).map (fun t => (t.voice.instType, t.results)) = some (.s5b, [.ok true]) ∧
    (nextOf (exec (.inst 1) renumbered)).map (fun t => (t.voice.instType, t.results)) = some (.none, [.ok false]) := by decide

/-! ## Witnesses: the hypotheses of each statement are met -/

/-- Each of the three clauses of the step. -/
theorem witness_StepRunsTheDecodedCommand :
    State.reset.port = [] ∧
    (∃ i rest, decode defaultSelectors (State.reset.issue [0x04000000, 0x0D000000]).port = .ok (i, rest)) ∧
    (∃ r, (State.reset.issue [0x0D000000]).port ≠ [] ∧
      decode defaultSelectors (State.reset.issue [0x0D000000]).port = .error r) :=
  ⟨rfl, ⟨.rel, [0x0D000000], rfl⟩, .unassignedOpcode, by decide, rfl⟩

/-- Both sides of the equivalence are met by one port and missed by another. -/
theorem witness_StepIsRefusedExactlyWhereNoCommandIsSpelled :
    (∃ r, step (State.reset.issue [0x01001000]) = .refused r) ∧
    (∃ i rest, i.wellFormed defaultSelectors = true ∧
      (State.reset.issue [0x04000000]).port = encode defaultSelectors i ++ rest) :=
  ⟨⟨_, rfl⟩, .rel, [], rfl, by decide⟩

/-- A run of several commands, the longest `ROW` among them. -/
theorem witness_RunOfIssuedCommandsIsTheFoldOfMeanings :
    ∀ i ∈ [Instr.rst, .row .pitched 15 7 (List.replicate 7 ⟨0, 0⟩), .tick 0x7FF 0xF, .fxother 0x44 0x10],
      i.wellFormed defaultSelectors = true := by decide

theorem witness_PortsOfWholeCommandsNeverStopTheMachine :
    (State.reset.issue (encodeAll defaultSelectors [.rel, .row .release 0 0 [⟨0x56, 1⟩, ⟨0x45, 0xE2⟩], .clr])).safe :=
  ⟨_, by decide, rfl⟩

/-- The longest well-formed command, and one at each end of the ignored parameters. -/
theorem witness_DecodeOfEncodeIsTheCommand :
    (Instr.row .pitched 15 7 (List.replicate 7 ⟨0xFF, 0xFF⟩)).wellFormed defaultSelectors = true ∧
    (Instr.volfxIgn 0x20).wellFormed defaultSelectors = true ∧
    (Instr.volfxIgn 0xFF).wellFormed defaultSelectors = true := by decide

theorem witness_DecodedWordsAreTheWordsOfTheCommand :
    decode defaultSelectors [0x01C02000, 0x06005601, 0x060045E2, 0x0D000000] =
      .ok (.row .release 0 0 [⟨0x56, 0x01⟩, ⟨0x45, 0xE2⟩], [0x0D000000]) := rfl

/-- Each of the four clauses. -/
theorem witness_FirstTableRowNamesTheDecodedCommand :
    (∃ i rest, decode defaultSelectors [0x060045E4] = .ok (i, rest)) ∧ firstRow defaultSelectors 0x0D000000 = none ∧
    (∃ r, firstRow defaultSelectors 0x060045E4 = some r ∧ r.mnemonic ≠ "ROW") ∧
    (∃ r₁ ∈ opcodeTable defaultSelectors, ∃ r₂ ∈ opcodeTable defaultSelectors, r₁ ≠ r₂ ∧
      r₁.covers 0x060045E3 = true ∧ r₂.covers 0x060045E3 = true) :=
  ⟨⟨_, _, rfl⟩, by decide, ⟨⟨"VOLFX.IGN", 0x06004500, 0xFFFFFF00⟩, by decide, by decide⟩,
    ⟨"VOLFX.MODE", 0x060045E0, 0xFFFFFFFC⟩, by decide, ⟨"VOLFX.IGN", 0x06004500, 0xFFFFFF00⟩, by decide, by decide, by decide,
    by decide⟩

/-- Each of the four clauses, at the ends of their ranges. -/
theorem witness_WordsThatSpellNoCommandAreRefused :
    (0x0D ≤ (opcodeOf 0x0D000000).toNat ∧ 0x0D ≤ (opcodeOf 0xFF000000).toNat) ∧
    (opcodeOf 0x00000001 = Op.byte .rst ∧ 0x00000001#32 &&& 0x00FFFFFF#32 ≠ 0) ∧
    (opcodeOf 0x01000800 = Op.byte .row ∧ 0x01000800#32 &&& 0x00000FFF#32 ≠ 0) ∧
    (opcodeOf 0x05400000 = Op.byte .note ∧ 0x05400000#32 &&& 0x00C07FFF#32 ≠ 0) ∧
    (opcodeOf 0x06010000 = Op.byte .fx ∧ 0x06010000#32 &&& 0x00FF0000#32 ≠ 0) ∧
    (opcodeOf 0x07000008 = Op.byte .inst ∧ 0x07000008#32 &&& 0x00FFFFF8#32 ≠ 0) ∧
    (opcodeOf 0x0C000100 = Op.byte .cvd ∧ 0x0C000100#32 &&& 0x00FFFF00#32 ≠ 0) ∧
    (opcodeOf 0x09008000 = Op.byte .tick ∧ 0x09008000#32 &&& 0x00FF8000#32 ≠ 0) ∧
    ([] : List Fx).length < (1 : BitVec 3).toNat ∧ (List.replicate 6 (⟨0, 0⟩ : Fx)).length < (7 : BitVec 3).toNat ∧
    ¬ (opcodeOf 0x09000000 = 0x06 ∧ 0x09000000#32 &&& 0x00FF0000#32 = 0) ∧
    ¬ (opcodeOf 0x06010000 = 0x06 ∧ 0x06010000#32 &&& 0x00FF0000#32 = 0) := by decide

/-- The words by mask and match of `NoteResult`, `VolumeLengthResult`, `VolumeModeResult`, `DutyEffectResult`, `CvdResult`,
`TickResult`, at the top of their fields. -/
theorem witness_masked_words :
    0x053F8000#32 &&& 0xFFC07FFF#32 = 0x05000000#32 ∧ 0x0600451F#32 &&& 0xFFFFFFE0#32 = 0x06004500#32 ∧
    0x060045E3#32 &&& 0xFFFFFFFC#32 = 0x060045E0#32 ∧ 0x060056FF#32 &&& 0xFFFFFF00#32 = 0x06005600#32 ∧
    0x0C0000FF#32 &&& 0xFFFFFF00#32 = 0x0C000000#32 ∧ 0x09007FFF#32 &&& 0xFFFF8000#32 = 0x09000000#32 := by decide

/-- Both word clauses, at the ends of their ranges. -/
theorem witness_IgnoredEffectsChangeNothing :
    (∀ w ∈ [0x06004520#32, 0x060045DF#32, 0x060045E4#32, 0x060045FF#32], w &&& 0xFFFFFF00#32 = 0x06004500#32 ∧
      w &&& 0xFFFFFFE0#32 ≠ 0x06004500#32 ∧ w &&& 0xFFFFFFFC#32 ≠ 0x060045E0#32) ∧
    (∀ w ∈ [0x06000000#32, 0x06004410#32, 0x060055FF#32, 0x0600FFFF#32], w &&& 0xFFFF0000#32 = 0x06000000#32 ∧
      w &&& 0xFFFFFF00#32 ≠ 0x06004500#32 ∧ w &&& 0xFFFFFF00#32 ≠ 0x06005600#32) := by simp

/-- Two different selectors, the defaults and others. -/
theorem witness_EffectDispatchAndColumnAgree :
    defaultSelectors.efVolume ≠ defaultSelectors.efDuty ∧
    renumbered.params.selectors.efVolume ≠ renumbered.params.selectors.efDuty := by decide

theorem witness_IgnoredColumnsDoNotStopTheRow :
    ∀ c ∈ [(⟨0x45, 0x20⟩ : Fx), ⟨0x45, 0xDF⟩, ⟨0x45, 0xE4⟩, ⟨0x45, 0xFF⟩, ⟨0x44, 0x10⟩, ⟨0x57, 0x00⟩],
      columnIgnored defaultSelectors c = true := by decide

/-- Distinct type numbers and their bounds: the defaults and others (`InstResult`). -/
theorem witness_InstResult :
    distinctTags State.reset.params.tags ∧ distinctTags renumbered.params.tags ∧
    (0 ≠ renumbered.params.tags.t2A03 ∧ 0 ≠ renumbered.params.tags.vrc6 ∧ 0 ≠ renumbered.params.tags.n163 ∧
      0 ≠ renumbered.params.tags.s5b) := by decide

/-- The unsupported operands of `InstResult`, and the hypotheses of `FailedInstLeavesNothingBehind`. -/
theorem witness_FailedInstLeavesNothingBehind :
    (∀ t ∈ [(0 : BitVec 3), 3, 4, 7], (t = 0 ∨ t = 3 ∨ t = 4 ∨ t = 7) ∧ t ≠ State.reset.params.tags.t2A03 ∧
      t ≠ State.reset.params.tags.vrc6 ∧ t ≠ State.reset.params.tags.n163 ∧ t ≠ State.reset.params.tags.s5b) ∧
    ∃ u, execAll [.inst 6, .cvd 0x01, .effstr] State.reset = .next u :=
  ⟨by decide, _, rfl⟩

theorem witness_SeqdutyAndConversionResults :
    InstType.none ≠ .vrc6 ∧ InstType.t2A03 ≠ .vrc6 ∧ InstType.n163 ≠ .vrc6 ∧ InstType.s5b ≠ .vrc6 := by decide

/-- Distinct addresses, with the defaults and with others: `EveryTickWritesTheEnableMaskFirst`,
`GatedOffTickIsSilentAndDropsTheReset`, `PerloIsWrittenExactlyWhenDue`, `OffToOnTickRewritesThePeriod`. -/
theorem witness_distinctAddrs :
    distinctAddrs State.reset.params ∧ distinctAddrs (defaultParams 1 .swapped) ∧
    distinctAddrs { defaultParams 1 .swapped with addrs := overridden } := by
  decide

/-- A duty effect before a pitched row whose columns hold none (`NoteRestoresTheDefaultDuty`). -/
theorem witness_NoteRestoresTheDefaultDuty :
    ∀ c ∈ [(⟨0x45, 0x10⟩ : Fx), ⟨0x55, 0x01⟩, ⟨0x57, 0x01⟩], c.e ≠ State.reset.params.selectors.efDuty := by
  decide

/-- The two values of the gate: `GatedOffTickIsSilentAndDropsTheReset`, `OffToOnTickRewritesThePeriod`,
`GatedOnTickWritesTheControlByte`, and the first and third clause of `PerloIsWrittenExactlyWhenDue`. -/
theorem witness_gate :
    State.reset.voice.gate = false ∧ (sounding 0 .asWritten 0 true false 1 0xFFFF false).voice.gate = true ∧
    ∃ t, exec (.tick 0x7FF 0xF) State.reset = .next t :=
  ⟨rfl, rfl, _, rfl⟩

/-- The last clause of `PerloIsWrittenExactlyWhenDue` and the second of `ModeStartsInLoopAndOnlyEffectsChangeIt`. -/
theorem witness_rst_completes : ∃ t, exec .rst (sounding 0 .asWritten 0 true false 1 0xFFFF true) = .next t := ⟨_, rfl⟩

/-- First clause: a gated-on tick, a mode switch from mode 1 and a pitched row in loop mode between, and a gated-on state with
no reset pending and an equal period byte. -/
theorem witness_UnchangedPeriodByteIsNotRewritten :
    ∃ s₁ s₂, (sounding 0 .asWritten 0 true true 1 0xFFFF true).voice.gate = true ∧
      exec (.tick 0x0FD 0xF) (sounding 0 .asWritten 0 true true 1 0xFFFF true) = .next s₁ ∧
      (∀ i ∈ [Instr.volfxMode 0, .row .pitched 9 3 [], .clr], (∀ P V, i ≠ .tick P V) ∧ i ≠ .rst) ∧
      execAll [.volfxMode 0, .row .pitched 9 3 [], .clr] s₁ = .next s₂ ∧
      s₂.voice.gate = true ∧ s₂.voice.resetEnvelope = false ∧ byteB .asWritten 0x1FD = byteB .asWritten 0x0FD :=
  ⟨_, _, rfl, rfl, by simp, rfl, rfl, rfl, by decide⟩

/-- The two other clauses: commands of every shape the rule names, and a pitched row whose columns set no mode. -/
theorem witness_UnchangedPeriodByteIsNotRewritten_premise :
    (∀ i ∈ [Instr.rel, .row .empty 0 0 [⟨0x56, 3⟩], .inst 3, .seqduty 1, .clr, .effstr, .volfxIgn 0x20],
      leavesDiffing defaultSelectors i = true) ∧
    (∃ t, execAll [.rel, .row .empty 0 0 [⟨0x56, 3⟩], .inst 3, .seqduty 1, .clr, .effstr, .volfxIgn 0x20]
      State.reset = .next t) ∧
    (∀ c ∈ [(⟨0x56, 3⟩ : Fx), ⟨0x45, 0x20⟩], columnSetsMode defaultSelectors c = false) ∧
    ∃ t, exec (.row .pitched 9 3 [⟨0x56, 3⟩, ⟨0x45, 0x20⟩]) State.reset = .next t :=
  ⟨by decide, ⟨_, rfl⟩, by decide, _, rfl⟩

/-- The machine after a `CLR` with the gate open and the period 0x200 sent before. -/
def afterClr : State :=
  { sounding 0 .asWritten 0 true false 1 0x0200 false with trace := [(0x5000, 0x00), (0x5002, 0x00), (0x5003, 0x00)] }

/-- Each clause: a run with a short and a silent tick and no full one, the short tick of the hazard, and a full tick after
it. -/
theorem witness_ClrLeavesPerloZeroUntilAFullTick :
    distinctAddrs afterClr.params ∧
    (exec .clr (sounding 0 .asWritten 0 true false 1 0x0200 false) = .next afterClr ∧
      noFullTick [.tick 0x200 0xA, .seqduty 1, .cut, .tick 0x3FD 0x0] afterClr = true ∧
      ∃ u, execAll [.tick 0x200 0xA, .seqduty 1, .cut, .tick 0x3FD 0x0] afterClr = .next u) ∧
    (afterClr.voice.gate = true ∧ afterClr.voice.resetEnvelope = false ∧
      byteB afterClr.params.periodSplit 0x200 = cmpByte afterClr.params.periodSplit afterClr.voice.lastPeriod) ∧
    ∃ u, execAll [.tick 0x200 0xA] afterClr = .next u ∧ isFullTick (.tick 0x1FD 0xA) u = true :=
  ⟨by decide, ⟨rfl, by decide, _, rfl⟩, ⟨rfl, rfl, by decide⟩, _, rfl, by decide⟩

/-- The conditions of the last clause: each mode but the default delivered, the default over the default, and not looping. -/
theorem witness_EffstrTokensRecreateTheMode :
    (inMode true true false).mode ≠ 0 ∧ (inMode false false false).mode ≠ 0 ∧ (inMode false true false).mode ≠ 0 ∧
    (inMode true false false).mode = 0 ∧ (inMode false true false).envelopeLoop = false := by decide

/-- A command that is neither `TICK` nor `CLR` completes. -/
theorem witness_OnlyTickAndClrWriteTheSink :
    let i : Instr := .row .pitched 9 3 [⟨0x45, 0x10⟩]
    (∃ t, exec i State.reset = .next t) ∧ i ≠ .clr ∧ ∀ P V, i ≠ .tick P V :=
  ⟨⟨_, rfl⟩, by decide, by intro P V h; cases h⟩

/-- A full tick, an address outside the four it stores to, and one it does not store to when the burst is silent. -/
theorem witness_StoringCommandsFrame :
    (∃ t, exec (.tick 0x0FD 0xF) (sounding 1 .asWritten 0 true false 1 0xFFFF true) = .next t) ∧
    (∃ t, exec .clr State.reset = .next t) ∧
    0x5000 ∉ sinkAddrs (defaultParams 1 .asWritten) ∧
    addrPerhi State.reset.params ≠ addrEnable ∧ addrPerhi State.reset.params ≠ addrCtrl State.reset.params ∧
    State.reset.voice.gate = false :=
  ⟨⟨_, rfl⟩, ⟨_, rfl⟩, by decide, by decide, by decide, rfl⟩

/-- `RegistersChangeOnlyUnderTheirWriters`, `OnlyThreeCommandsReturnResults`, `ParametersAreFixedAndCommandsLeaveThePort` and
the third clause of `ModeStartsInLoopAndOnlyEffectsChangeIt`: commands and steps complete, with rows whose columns set no mode. -/
theorem witness_commands_and_steps_complete :
    (∃ t, exec (.row .noteOff 0 0 [⟨0x56, 3⟩]) State.reset = .next t) ∧ (∃ t, exec (.inst 3) State.reset = .next t) ∧
    (∃ t, exec (.cvd 3) State.reset = .next t) ∧ (∃ t, exec .effstr State.reset = .next t) ∧
    (∃ t, step (State.reset.issue [0x01001000, 0x06005603, 0x04000000]) = .next t) ∧ (⟨0x56, 3⟩ : Fx).e ≠ 0x45 :=
  ⟨⟨_, rfl⟩, ⟨_, rfl⟩, ⟨_, rfl⟩, ⟨_, rfl⟩, ⟨_, rfl⟩, by decide⟩

/-- The last clause: an empty row with columns that set no mode. -/
theorem witness_ModeTransitionTable :
    (∃ t, exec (.row .empty 0 0 [⟨0x56, 3⟩, ⟨0x45, 0x20⟩]) State.reset = .next t) ∧ RowKind.empty ≠ .pitched ∧
    (∀ c ∈ [(⟨0x56, 3⟩ : Fx), ⟨0x45, 0x20⟩], columnSetsMode defaultSelectors c = false) :=
  ⟨⟨_, rfl⟩, by decide, by decide⟩

/-- A reset that comes (by a pitched row outside loop mode) and one that goes (by a tick). -/
theorem witness_LifeOfAPendingReset :
    (∃ t, exec (.row .pitched 9 3 []) { State.reset with voice := inMode false false false } = .next t ∧
      t.voice.resetEnvelope = true) ∧
    (∃ t, exec (.tick 0 0) { State.reset with voice := inMode true false true } = .next t ∧
      t.voice.resetEnvelope = false) :=
  ⟨⟨_, rfl, rfl⟩, _, rfl, rfl⟩

theorem witness_RunsDoNotDependOnWhatTheSinkReceived :
    ∃ t, execAll [.clr, .tick 0x0FD 0xF, .cvd 0x81] (sounding 0 .asWritten 0 true false 1 0xFFFF false) = .next t :=
  ⟨_, rfl⟩

/-- Two machines that differ in all five masked registers. -/
theorem witness_UnreadRegistersReachNoOutput :
    let u := { State.reset with
      voice := { Voice.reset with period := 0x7FF, volume := 0xF, volCeil := 0xA, ih := some ⟨0x0F, 0x40⟩, releasing := true } }
    State.reset.params = u.params ∧ State.reset.trace = u.trace ∧ State.reset.results = u.results ∧
      State.reset.voice.masked = u.voice.masked ∧ State.reset.voice ≠ u.voice ∧
      ∃ t, execAll [.inst 6, .row .pitched 9 3 [], .tick 0x0FD 0xF] State.reset = .next t :=
  ⟨rfl, rfl, rfl, rfl, by decide, _, rfl⟩

/-- A state that is not the reset state meets the invariant, and steps. -/
theorem witness_EveryStepKeepsTheInvariant :
    let s : State :=
      { renumbered with
        voice := { Voice.reset with lastPeriod := 0x07FF, instType := .s5b, ih := some ⟨0x0F, 0x40⟩, gate := true }
        port := [0x09007FFF]
        trace := [(0x5015, 0x03), (0x5002, 0x07)]
        results := [.ok true] }
    s.inv ∧ ∃ t, step s = .next t :=
  ⟨⟨by decide, by decide, by simp only [List.forall_mem_cons]; exact ⟨by decide, by decide, by intro w hw; cases hw⟩,
    by simp only [List.forall_mem_cons]; exact ⟨trivial, by intro w hw; cases hw⟩⟩, _, rfl⟩

/-- A pair with commands on both ports. -/
def pairWithWork : Pair :=
  { Pair.reset (defaultParams 0 .asWritten) with
    voice0 := { State.reset with params := defaultParams 0 .asWritten, port := [0x01658000, 0x09000051] }
    voice1 := { State.reset with params := defaultParams 1 .asWritten, port := [0x0A000000] } }

theorem witness_OneVoiceLeavesTheOtherAlone : (∃ q, pairWithWork.stepVoice 1 = .next q) ∧ (0 : Channel) ≠ 1 :=
  ⟨⟨_, rfl⟩, by decide⟩

/-- T14's shape: both voices run over the sink, in an order of the owner. -/
theorem witness_SharedSinkIsAnInterleavingUnderEverySchedule :
    pairWithWork.inv ∧ (∀ w ∈ pairWithWork.sink, w.1 = addrEnable → w.2 = 0x03) ∧
    ∃ q, Pair.run [0, 1, 0, 1] pairWithWork = .next q := by
  refine ⟨⟨rfl, by decide, (by intro w hw; cases hw), fun c => ?_⟩, (by intro w hw; cases hw), _, rfl⟩
  match c with
  | 0 => exact ⟨rfl, (by intro w hw; cases hw), rfl⟩
  | 1 => exact ⟨rfl, (by intro w hw; cases hw), rfl⟩

end Sys2Proof.Tests
end

section
/-! PROOFS. The registers and the state of the voice: what leaves them unchanged, the registers no output depends on,
the invariant, the parameters and the port, the eight micro-steps of `TICK`, and the state after power-on
(10_state.md). -/

namespace Sys2Proof.Machine

/-! ## The note part of a row, register by register (40_note_commands.md R90) -/

@[simp] theorem dispatchNote_period (k : RowKind) (n : BitVec 4) (o : BitVec 3) (v : Voice) :
    (dispatchNote k n o v).period = if k = .pitched then Config.noteTable o n else v.period := by
  cases k <;> simp [dispatchNote]

@[simp] theorem dispatchNote_volume (k : RowKind) (n : BitVec 4) (o : BitVec 3) (v : Voice) :
    (dispatchNote k n o v).volume = v.volume := by
  cases k <;> simp [dispatchNote]

@[simp] theorem dispatchNote_dutyPeriod (k : RowKind) (n : BitVec 4) (o : BitVec 3) (v : Voice) :
    (dispatchNote k n o v).dutyPeriod = if k = .pitched then v.dutyDefault else v.dutyPeriod := by
  cases k <;> simp [dispatchNote]

@[simp] theorem dispatchNote_dutyDefault (k : RowKind) (n : BitVec 4) (o : BitVec 3) (v : Voice) :
    (dispatchNote k n o v).dutyDefault = v.dutyDefault := by
  cases k <;> simp [dispatchNote]

@[simp] theorem dispatchNote_lastPeriod (k : RowKind) (n : BitVec 4) (o : BitVec 3) (v : Voice) :
    (dispatchNote k n o v).lastPeriod = v.lastPeriod := by
  cases k <;> simp [dispatchNote]

@[simp] theorem dispatchNote_lengthCounter (k : RowKind) (n : BitVec 4) (o : BitVec 3) (v : Voice) :
    (dispatchNote k n o v).lengthCounter = v.lengthCounter := by
  cases k <;> simp [dispatchNote]

@[simp] theorem dispatchNote_volCeil (k : RowKind) (n : BitVec 4) (o : BitVec 3) (v : Voice) :
    (dispatchNote k n o v).volCeil = if k = .pitched then 0x0F else v.volCeil := by
  cases k <;> simp [dispatchNote]

@[simp] theorem dispatchNote_instType (k : RowKind) (n : BitVec 4) (o : BitVec 3) (v : Voice) :
    (dispatchNote k n o v).instType = v.instType := by
  cases k <;> simp [dispatchNote]

@[simp] theorem dispatchNote_ih (k : RowKind) (n : BitVec 4) (o : BitVec 3) (v : Voice) :
    (dispatchNote k n o v).ih = v.ih := by
  cases k <;> simp [dispatchNote]

@[simp] theorem dispatchNote_gate (k : RowKind) (n : BitVec 4) (o : BitVec 3) (v : Voice) :
    (dispatchNote k n o v).gate = if k = .pitched then true else if k = .noteOff then false else v.gate := by
  cases k <;> simp [dispatchNote]

@[simp] theorem dispatchNote_hardwareEnvelope (k : RowKind) (n : BitVec 4) (o : BitVec 3) (v : Voice) :
    (dispatchNote k n o v).hardwareEnvelope = v.hardwareEnvelope := by
  cases k <;> simp [dispatchNote]

@[simp] theorem dispatchNote_envelopeLoop (k : RowKind) (n : BitVec 4) (o : BitVec 3) (v : Voice) :
    (dispatchNote k n o v).envelopeLoop = v.envelopeLoop := by
  cases k <;> simp [dispatchNote]

@[simp] theorem dispatchNote_resetEnvelope (k : RowKind) (n : BitVec 4) (o : BitVec 3) (v : Voice) :
    (dispatchNote k n o v).resetEnvelope = v.resetEnvelope := by
  cases k <;> simp [dispatchNote]

@[simp] theorem dispatchNote_releasing (k : RowKind) (n : BitVec 4) (o : BitVec 3) (v : Voice) :
    (dispatchNote k n o v).releasing = if k = .empty then v.releasing else decide (k = .release) := by
  cases k <;> simp [dispatchNote]

/-! ## Which columns write which register (41_effect_commands.md R110) -/

theorem columnSetsMode_of_len {sel : Selectors} {c : Fx} (he : c.e = sel.efVolume) (hp : c.p < 0x20#8) :
    columnSetsMode sel c = true := by
  simp [columnSetsMode, ignoredVolumeParam, he, hp]

theorem columnSetsMode_of_mode {sel : Selectors} {c : Fx} (he : c.e = sel.efVolume)
    (hp : 0xE0#8 ≤ c.p ∧ c.p < 0xE4#8) : columnSetsMode sel c = true := by
  simp [columnSetsMode, ignoredVolumeParam, he, hp]

/-- A register that the length load, the mode switch and the duty effect each keep, unless the column is of a certain sort,
is kept by a list of columns unless one of them is of that sort. -/
theorem doColumns_keeps_or {α : Type} (register : Voice → α) {sel : Selectors} {writes : Fx → Prop}
    (hlen : ∀ c v, c.e = sel.efVolume → c.p < 0x20#8 →
      register (doVolfxLen (c.p.extractLsb' 0 5) v) = register v ∨ writes c)
    (hmode : ∀ c v, c.e = sel.efVolume → 0xE0#8 ≤ c.p ∧ c.p < 0xE4#8 →
      register (doVolfxMode (c.p.extractLsb' 0 2) v) = register v ∨ writes c)
    (hduty : ∀ c v, c.e = sel.efDuty → register (doDutyfx c.p v) = register v ∨ writes c)
    (fx : List Fx) (v : Voice) : register (doColumns sel fx v) = register v ∨ ∃ c ∈ fx, writes c := by
  induction fx generalizing v with
  | nil => exact .inl rfl
  | cons c fx ih =>
    have hc : register (doFx sel c v) = register v ∨ writes c := by
      rcases doFx_cases sel c v with ⟨he, hp, e⟩ | ⟨he, hl, hp, e⟩ | ⟨he, e⟩ | e <;> rw [e]
      · exact hlen c v he hp
      · exact hmode c v he ⟨hl, hp⟩
      · exact hduty c v he
      · exact .inl rfl
    rw [doColumns_cons]
    rcases hc with hc | hc
    · rcases ih (doFx sel c v) with h | ⟨d, hd, hw⟩
      · exact .inl (h.trans hc)
      · exact .inr ⟨d, List.mem_cons_of_mem c hd, hw⟩
    · exact .inr ⟨c, List.mem_cons_self, hc⟩

theorem doColumns_dutyPeriod (sel : Selectors) (fx : List Fx) (v : Voice) :
    (doColumns sel fx v).dutyPeriod = v.dutyPeriod ∨ ∃ c ∈ fx, c.e = sel.efDuty :=
  doColumns_keeps_or (·.dutyPeriod) (fun _ _ _ _ => .inl rfl) (fun _ _ _ _ => .inl rfl) (fun _ _ he => .inr he) fx v

theorem doColumns_dutyDefault (sel : Selectors) (fx : List Fx) (v : Voice) :
    (doColumns sel fx v).dutyDefault = v.dutyDefault ∨ ∃ c ∈ fx, c.e = sel.efDuty :=
  doColumns_keeps_or (·.dutyDefault) (fun _ _ _ _ => .inl rfl) (fun _ _ _ _ => .inl rfl) (fun _ _ he => .inr he) fx v

theorem doColumns_lengthCounter (sel : Selectors) (fx : List Fx) (v : Voice) :
    (doColumns sel fx v).lengthCounter = v.lengthCounter ∨ ∃ c ∈ fx, c.e = sel.efVolume ∧ c.p < 0x20#8 :=
  doColumns_keeps_or (·.lengthCounter) (fun _ _ he hp => .inr ⟨he, hp⟩) (fun _ _ _ _ => .inl rfl)
    (fun _ _ _ => .inl rfl) fx v

theorem doColumns_hardwareEnvelope (sel : Selectors) (fx : List Fx) (v : Voice) :
    (doColumns sel fx v).hardwareEnvelope = v.hardwareEnvelope ∨
      ∃ c ∈ fx, c.e = sel.efVolume ∧ 0xE0#8 ≤ c.p ∧ c.p < 0xE4#8 :=
  doColumns_keeps_or (·.hardwareEnvelope) (fun _ _ _ _ => .inl rfl) (fun _ _ he hp => .inr ⟨he, hp⟩)
    (fun _ _ _ => .inl rfl) fx v

theorem doColumns_envelopeLoop (sel : Selectors) (fx : List Fx) (v : Voice) :
    (doColumns sel fx v).envelopeLoop = v.envelopeLoop ∨ ∃ c ∈ fx, columnSetsMode sel c = true :=
  doColumns_keeps_or (·.envelopeLoop) (fun _ _ he hp => .inr (columnSetsMode_of_len he hp))
    (fun _ _ he hp => .inr (columnSetsMode_of_mode he hp)) (fun _ _ _ => .inl rfl) fx v

theorem doColumns_resetEnvelope (sel : Selectors) (fx : List Fx) (v : Voice) :
    (doColumns sel fx v).resetEnvelope = v.resetEnvelope ∨ ∃ c ∈ fx, columnSetsMode sel c = true :=
  doColumns_keeps_or (·.resetEnvelope) (fun _ _ he hp => .inr (columnSetsMode_of_len he hp))
    (fun _ _ he hp => .inr (columnSetsMode_of_mode he hp)) (fun _ _ _ => .inl rfl) fx v

/-! ## The registers that reach no output (10_state.md R11, R12, R17, R19, R24) -/

@[simp] theorem masked_masked (v : Voice) : v.masked.masked = v.masked := rfl

theorem doFx_masked (sel : Selectors) (c : Fx) (v : Voice) : (doFx sel c v).masked = doFx sel c v.masked := by
  unfold doFx
  split_ifs <;> rfl

theorem doColumns_masked (sel : Selectors) (fx : List Fx) (v : Voice) :
    (doColumns sel fx v).masked = doColumns sel fx v.masked := by
  induction fx generalizing v with
  | nil => rfl
  | cons c fx ih => rw [doColumns_cons, doColumns_cons, ih, doFx_masked]

/-- `releasing` is all a release writes, and it is masked. -/
theorem doRel_masked (v : Voice) : (doRel v).masked = v.masked := by
  unfold doRel
  split <;> rfl

theorem dispatchNote_masked (k : RowKind) (n : BitVec 4) (o : BitVec 3) (v : Voice) :
    (dispatchNote k n o v).masked = (dispatchNote k n o v.masked).masked := by
  cases k with
  | release => simp [dispatchNote, doRel_masked]
  | empty | pitched | noteOff => rfl

theorem noteHook_masked (k : RowKind) (v : Voice) : (noteHook k v).masked = noteHook k v.masked := by
  rw [noteHook_eq, noteHook_eq]; rfl

/-- A row's masked outcome depends on the masked voice alone. -/
theorem doRow_masked (sel : Selectors) (k : RowKind) (n : BitVec 4) (o : BitVec 3) (fx : List Fx) (v : Voice) :
    (doRow sel k n o fx v).masked = (doRow sel k n o fx v.masked).masked := by
  unfold doRow
  rw [noteHook_masked, dispatchNote_masked, doColumns_masked, noteHook_masked]

/-- No command's masked outcome reads a masked register. -/
theorem voiceAfter_masked (params : Params) (i : Instr) (v : Voice) :
    (voiceAfter params i v).masked = (voiceAfter params i v.masked).masked := by
  cases i with
  | row k n o fx => exact doRow_masked params.selectors k n o fx v
  | rel => exact (doRel_masked v).trans (doRel_masked v.masked).symm
  | inst t =>
    simp only [voiceAfter]
    split <;> rfl
  | _ => rfl

/-- No burst reads a masked register. -/
theorem writesOf_masked (i : Instr) (params : Params) (v : Voice) : writesOf i params v.masked = writesOf i params v := by
  cases i <;> rfl

/-- No result reads a masked register. -/
theorem resultsOf_masked (params : Params) (i : Instr) (v : Voice) :
    resultsOf params i v.masked = resultsOf params i v := by
  cases i <;> rfl

/-- Two machines that have sent and returned the same and differ, ports aside, in masked registers alone. -/
structure State.SameButMasked (s u : State) : Prop where
  params : s.params = u.params
  trace : s.trace = u.trace
  results : s.results = u.results
  voice : s.voice.masked = u.voice.masked

/-- One command keeps two such machines such. -/
theorem State.SameButMasked.stateAfter {s u : State} (h : s.SameButMasked u) (i : Instr) :
    (stateAfter i s).SameButMasked (stateAfter i u) := by
  obtain ⟨hp, ht, hr, hv⟩ := h
  refine ⟨hp, ?_, ?_, ?_⟩
  · rw [stateAfter_trace, stateAfter_trace, ht, hp, ← writesOf_masked, hv, writesOf_masked]
  · rw [stateAfter_results, stateAfter_results, hr, hp, ← resultsOf_masked, hv, resultsOf_masked]
  · rw [stateAfter_voice, stateAfter_voice, hp, voiceAfter_masked, hv, ← voiceAfter_masked]

/-- A run of commands keeps two such machines such. -/
theorem State.SameButMasked.execAll {s u t : State} {is : List Instr} (h : s.SameButMasked u)
    (hrun : execAll is s = .next t) : ∃ t', execAll is u = .next t' ∧ t.SameButMasked t' := by
  induction is generalizing s u with
  | nil =>
    cases hrun
    exact ⟨u, rfl, h⟩
  | cons i is ih =>
    rw [execAll_cons] at hrun ⊢
    exact ih (h.stateAfter i) hrun

/-- Settles O54: the relation `SameButMasked` holds at the start and every command keeps it. -/
theorem unreadRegistersReachNoOutput : Obligations.UnreadRegistersReachNoOutput := by
  intro is s u t hparams htrace hresults hvoice hrun
  obtain ⟨t', hrun', h⟩ := State.SameButMasked.execAll ⟨hparams, htrace, hresults, hvoice⟩ hrun
  exact ⟨t', hrun', h.trace.symm, h.results.symm, h.voice.symm⟩

/-! ## The invariant -/

/-- The invariant of a voice is about four registers: a voice with the same four has it too. -/
theorem Voice.inv_of_same {v w : Voice} (hv : v.inv) (hl : w.lastPeriod = v.lastPeriod) (hi : w.ih = v.ih)
    (ht : w.instType = v.instType) (hc : w.volCeil = v.volCeil) : w.inv := by
  rwa [Voice.inv, hl, hi, ht, hc]

theorem doRow_inv (sel : Selectors) (k : RowKind) (n : BitVec 4) (o : BitVec 3) (fx : List Fx) {v : Voice} (hv : v.inv) :
    (doRow sel k n o fx v).inv := by
  obtain ⟨-, -, hl, hc, ht, hi, -, -⟩ := doColumns_frame sel fx v
  have ⟨_, _, hceil⟩ := hv
  refine Voice.inv_of_same hv ?_ ?_ ?_ ?_ <;> simp [doRow, hl, hc, ht, hi, hceil]

theorem tickVoice_inv (P : BitVec 11) (V : BitVec 4) {v : Voice} (hv : v.inv) : (tickVoice P V v).inv := by
  obtain ⟨-, hih, hceil⟩ := hv
  refine ⟨?_, hih, hceil⟩
  rw [tickVoice_lastPeriod]
  split
  · right
    rw [BitVec.toNat_setWidth_of_le (by decide)]
    exact P.isLt
  · exact .inl rfl

/-- A successful `INST` gives the type and the handler of that type together (42_instrument_and_duty.md R126). -/
theorem voiceAfter_inst_inv (params : Params) (t : BitVec 3) {v : Voice} (hv : v.inv) :
    (voiceAfter params (.inst t) v).inv := by
  simp only [voiceAfter]
  split
  · next ty hty =>
    obtain ⟨hlast, -, hceil⟩ := hv
    exact ⟨hlast, by simp [supportedType_ne_none hty], hceil⟩
  · exact hv

theorem voiceAfter_inv (params : Params) (i : Instr) {v : Voice} (hv : v.inv) : (voiceAfter params i v).inv := by
  cases i with
  | rst => exact ⟨.inl rfl, rfl, rfl⟩
  | row k n o fx => exact doRow_inv params.selectors k n o fx hv
  | rel => exact Voice.inv_of_same hv (doRel_lastPeriod v) (doRel_ih v) (doRel_instType v) (doRel_volCeil v)
  | note n o =>
    obtain ⟨hlast, hhandler, -⟩ := hv
    exact ⟨hlast, hhandler, rfl⟩
  | inst t => exact voiceAfter_inst_inv params t hv
  | tick P V => exact tickVoice_inv P V hv
  | _ => exact Voice.inv_of_same hv rfl rfl rfl rfl

/-- Under `AS_WRITTEN` the byte for `PERHI` has the three high bits of the period (10_state.md R30). -/
theorem byteA_asWritten_lt (P : BitVec 11) : (byteA .asWritten P).toNat < 8 := by
  simp only [byteA, BitVec.toNat_setWidth]
  omega

/-- All a command can write: the enable mask, a byte to `CTRL` or `PERLO`, a byte to `PERHI` of three bits under
`AS_WRITTEN` (10_state.md R28, R30). -/
theorem writesOf_cases {i : Instr} {params : Params} {v : Voice} {w : SinkWrite} (h : w ∈ writesOf i params v) :
    w = (addrEnable, enableMask) ∨ w.1 = addrCtrl params ∨
    (w.1 = addrPerhi params ∧ (params.periodSplit = .asWritten → w.2.toNat < 8)) ∨ w.1 = addrPerlo params := by
  cases i with
  | tick P V =>
    simp only [writesOf, tickBurst] at h
    split_ifs at h <;> simp at h
    · rcases h with rfl | rfl | rfl | rfl <;> simp +contextual [byteA_asWritten_lt]
    · rcases h with rfl | rfl | rfl <;> simp +contextual [byteA_asWritten_lt]
    · rcases h with rfl | rfl <;> simp
  | clr =>
    simp only [writesOf, clrBurst, List.mem_cons, List.not_mem_nil, or_false] at h
    rcases h with rfl | rfl | rfl <;> simp
  | _ => simp [writesOf] at h

theorem writesOf_inv {i : Instr} {params : Params} {v : Voice} {w : SinkWrite} (hd : distinctAddrs params)
    (h : w ∈ writesOf i params v) : writeInv params w := by
  obtain ⟨hec, heh, hel, hch, -, hhl⟩ := (distinctAddrs_iff params).mp hd
  refine ⟨writesOf_addrs h, ?_⟩
  rcases writesOf_cases h with rfl | hw | ⟨hw, hb⟩ | hw
  · exact ⟨fun _ => rfl, fun _ he => absurd he heh⟩
  · exact ⟨fun he => absurd (he.symm.trans hw) hec, fun _ hh => absurd (hw.symm.trans hh) hch⟩
  · exact ⟨fun he => absurd (he.symm.trans hw) heh, fun hs _ => hb hs⟩
  · exact ⟨fun he => absurd (he.symm.trans hw) hel, fun _ hh => absurd (hh.symm.trans hw) hhl⟩

/-- The diagnostic string: each of its two tokens has four characters (44_system_commands.md R164). -/
theorem effectString_length (v : Voice) :
    (effectString v).length = (if v.envelopeLoop then 0 else 4) + (if v.nonDefaultMode then 4 else 0) := by
  unfold effectString
  rw [List.length_append]
  congr 1 <;> split <;> rfl

theorem resultsOf_inv {params : Params} {i : Instr} {v : Voice} {r : Result} (h : r ∈ resultsOf params i v) :
    resultInv r := by
  cases i with
  | inst t =>
    cases List.mem_singleton.mp h
    trivial
  | cvd d =>
    cases List.mem_singleton.mp h
    trivial
  | effstr =>
    cases List.mem_singleton.mp h
    rw [resultInv, effectString_length]
    split <;> split <;> simp
  | _ => cases h

/-- Every command keeps the invariant. -/
theorem stateAfter_inv (i : Instr) {s : State} (h : s.inv) : (stateAfter i s).inv := by
  obtain ⟨⟨hdistinct, hlegal⟩, hvoice, htrace, hresults⟩ := h
  refine ⟨⟨hdistinct, hlegal⟩, voiceAfter_inv s.params i hvoice, fun w hw => ?_, fun r hr => ?_⟩
  · rcases List.mem_append.mp hw with hw | hw
    · exact htrace w hw
    · exact writesOf_inv hdistinct hw
  · rcases List.mem_append.mp hr with hr | hr
    · exact hresults r hr
    · exact resultsOf_inv hr

/-- Settles O56: an idle step keeps the state, and a step that runs a command keeps the invariant as the command does. -/
theorem everyStepKeepsTheInvariant : Obligations.EveryStepKeepsTheInvariant := by
  intro s t hinv hstep
  rcases step_cases s with ⟨-, e⟩ | ⟨i, rest, -, e⟩ | ⟨r, -, -, e⟩
  · cases e.symm.trans hstep
    exact hinv
  · cases e.symm.trans hstep
    exact stateAfter_inv i (s := s.setPort rest) hinv
  · cases e.symm.trans hstep

/-- Settles O57: the default parameters are legal, the reset voice holds the sentinel and no handler, nothing is sent. -/
theorem resetMeetsTheInvariant : Obligations.ResetMeetsTheInvariant :=
  ⟨legalParams_default 0 .asWritten, ⟨.inl rfl, rfl, rfl⟩, List.forall_mem_nil _, List.forall_mem_nil _⟩

/-! ## The eight micro-steps of `TICK` (10_state.md R25) -/

/-- Step 4 with the gate off: silence, the sentinel, and an end to the writes of this tick. -/
theorem TickProgress.step4_off {t : TickProgress} (h : t.machine.voice.gate = false) :
    t.step4 =
      { t with
        machine := (t.machine.regWrite (addrCtrl t.machine.params) silence).setVoice
          { t.machine.voice with lastPeriod := sentinel }
        silenced := true } := by
  simp [TickProgress.step4, h]

/-- Step 4 with the gate on does nothing. -/
theorem TickProgress.step4_on {t : TickProgress} (h : t.machine.voice.gate = true) : t.step4 = t := by
  simp [TickProgress.step4, h]

/-- Step 7 of a short burst: the new `lastPeriod` alone. -/
theorem TickProgress.step7_short {t : TickProgress} (hs : t.silenced = false)
    (hd : t.machine.voice.perloDue t.machine.params.periodSplit t.P = false) :
    t.step7 = { t with machine := t.machine.setVoice { t.machine.voice with lastPeriod := t.P.setWidth 16 } } := by
  simp [TickProgress.step7, hs, hd]

/-- Step 7 of a full burst: the write to `PERLO`, then the new `lastPeriod`. -/
theorem TickProgress.step7_full {t : TickProgress} (hs : t.silenced = false)
    (hd : t.machine.voice.perloDue t.machine.params.periodSplit t.P = true) :
    t.step7 =
      { t with
        machine := (t.machine.regWrite (addrPerlo t.machine.params)
          (perloByte t.machine.params.periodSplit t.P t.machine.voice.lengthCounter)).setVoice
            { t.machine.voice with lastPeriod := t.P.setWidth 16 } } := by
  simp [TickProgress.step7, hs, hd]

theorem tickVoice_off {P : BitVec 11} {V : BitVec 4} {v : Voice} (h : v.gate = false) :
    tickVoice P V v = { latch P V v with lastPeriod := sentinel, resetEnvelope := false } := by
  simp [tickVoice, h]

theorem tickVoice_on {P : BitVec 11} {V : BitVec 4} {v : Voice} (h : v.gate = true) :
    tickVoice P V v = { latch P V v with lastPeriod := P.setWidth 16, resetEnvelope := false } := by
  simp [tickVoice, h]

/-- A tick after its first three micro-steps: the operands latched, the duty extracted, the enable mask sent. -/
def afterEnable (P : BitVec 11) (V : BitVec 4) (s : State) : TickProgress where
  machine := (s.setVoice (latch P V s.voice)).regWrite addrEnable enableMask
  P := P
  V := V
  duty := dutyCycle s.voice.dutyPeriod
  silenced := false

theorem tickByMicroSteps_eq (P : BitVec 11) (V : BitVec 4) (s : State) :
    tickByMicroSteps P V s = (afterEnable P V s).step4.step5.step6.step7.step8.machine := rfl

/-- Settles O32: for each of the three bursts, the micro-steps send its writes one by one. -/
theorem microStepsMakeTheAtomicTick : Obligations.MicroStepsMakeTheAtomicTick := by
  intro P V s
  have hexec : exec (.tick P V) s = .next ((s.setVoice (tickVoice P V s.voice)).emit (tickBurst s.params P V s.voice)) := rfl
  rw [hexec, tickByMicroSteps_eq]
  cases hg : s.voice.gate with
  | false =>
    rw [tickVoice_off hg, tickBurst_silent hg, TickProgress.step4_off (t := afterEnable P V s) hg]
    rfl
  | true =>
    rw [tickVoice_on hg, TickProgress.step4_on (t := afterEnable P V s) hg]
    cases hd : s.voice.perloDue s.params.periodSplit P with
    | false =>
      rw [tickBurst_short hg hd, TickProgress.step7_short (t := (afterEnable P V s).step5.step6) rfl hd]
      rfl
    | true =>
      rw [tickBurst_full hg hd, TickProgress.step7_full (t := (afterEnable P V s).step5.step6) rfl hd]
      rfl

/-! ## The writers of the registers -/

/-- Settles O46: the columns of a row write six registers (the lemmas `doColumns_…`), its note the others; every other
command writes the registers its own equation names. -/
theorem registersChangeOnlyUnderTheirWriters : Obligations.RegistersChangeOnlyUnderTheirWriters := by
  intro i s t h
  cases eq_of_exec h
  rw [stateAfter_voice]
  cases i with
  | row k n o fx =>
    obtain ⟨hperiod, hvolume, hlast, hceil, htype, hih, hgate, hrel⟩ := doColumns_frame s.params.selectors fx s.voice
    have hdutyPeriod := doColumns_dutyPeriod s.params.selectors fx s.voice
    have hdutyDefault := doColumns_dutyDefault s.params.selectors fx s.voice
    have hlength := doColumns_lengthCounter s.params.selectors fx s.voice
    have hhardware := doColumns_hardwareEnvelope s.params.selectors fx s.voice
    have hloop := doColumns_envelopeLoop s.params.selectors fx s.voice
    have hreset := doColumns_resetEnvelope s.params.selectors fx s.voice
    cases k <;> simp [voiceAfter, doRow, *]
  | inst t =>
    simp only [voiceAfter]
    split <;> simp
  | _ => simp [voiceAfter]

/-! ## The parameters and the port -/

/-- What a stream of words leaves after its command is a suffix of it (30_encoding.md R60, R73). -/
theorem suffix_of_decode {sel : Selectors} {ws rest : List Word} {i : Instr} (h : decode sel ws = .ok (i, rest)) :
    rest <:+ ws := by
  cases ws with
  | nil => cases h
  | cons w ws =>
    cases hop : Op.ofByte (opcodeOf w) with
    | none => rw [decode_unassigned sel ws hop] at h; cases h
    | some op =>
      rw [decode_assigned sel ws hop] at h
      refine List.IsSuffix.trans ?_ (List.suffix_cons w ws)
      cases op with
      | row =>
        simp only [decodeRow] at h
        split_ifs at h
        split at h
        · cases h
        · next fx rest' hexts =>
          cases h
          obtain ⟨-, rfl⟩ := eq_of_decodeExts hexts
          exact List.suffix_append _ _
      | _ =>
        obtain ⟨-, -, rfl⟩ := oneWord_eq_ok.mp h
        exact List.suffix_rfl

/-- Settles O47: a command touches neither, and a step leaves the words its decoder leaves. -/
theorem parametersAreFixedAndCommandsLeaveThePort : Obligations.ParametersAreFixedAndCommandsLeaveThePort := by
  refine ⟨fun i s t h => ?_, fun s t h => ?_⟩
  · cases eq_of_exec h
    exact ⟨rfl, rfl⟩
  · rcases step_cases s with ⟨-, e⟩ | ⟨i, rest, hd, e⟩ | ⟨r, -, -, e⟩
    · cases e.symm.trans h
      exact ⟨rfl, [], rfl⟩
    · cases e.symm.trans h
      obtain ⟨ws, hws⟩ := suffix_of_decode hd
      exact ⟨rfl, ws, hws.symm⟩
    · cases e.symm.trans h

/-! ## The state after power-on -/

/-- A step runs the command its port spells. -/
theorem step_of_decode {s : State} {i : Instr} {rest : List Word} (h : decode s.params.selectors s.port = .ok (i, rest)) :
    step s = .next (stateAfter i (s.setPort rest)) := by
  rcases step_cases s with ⟨hp, -⟩ | ⟨j, rest', hd, e⟩ | ⟨r, -, hd, -⟩
  · rw [hp] at h
    cases h
  · cases hd.symm.trans h
    exact e
  · cases hd.symm.trans h

theorem decode_wordT (sel : Selectors) (P : BitVec 11) (V : BitVec 4) (ws : List Word) :
    decode sel (wordT P V :: ws) = .ok (.tick P V, ws) := by
  rw [decode_assigned sel (op := .tick) ws (by simp)]
  simp [oneWord]

/-- Settles O12: the values are those of the reset state; the first tick runs with the gate off. -/
theorem resetStateAndItsFirstTick : Obligations.ResetStateAndItsFirstTick := by
  refine ⟨by decide, by decide, fun P V => ?_⟩
  exact ⟨_, step_of_decode (decode_wordT _ P V []), congrArg (State.reset.trace ++ ·) (tickBurst_silent rfl)⟩

/-! ## The period-low/length byte (10_state.md R31) -/

/-- The length is ORed into the five high bits of the period byte. -/
theorem perloByte_high (split : PeriodSplit) (P : BitVec 11) (l : BitVec 5) :
    (perloByte split P l).extractLsb' 3 5 = (byteB split P).extractLsb' 3 5 ||| l := by
  ext i hi
  have h : 3 + i < 8 := by omega
  simp [perloByte, hi, h]

/-- The three low bits are the period byte's. -/
theorem perloByte_low (split : PeriodSplit) (P : BitVec 11) (l : BitVec 5) :
    (perloByte split P l).extractLsb' 0 3 = (byteB split P).extractLsb' 0 3 := by
  ext i hi
  simp [perloByte, hi]

/-- Under `SWAPPED` the period byte has no bit where the length stands. -/
theorem byteB_swapped_high (P : BitVec 11) : (byteB .swapped P).extractLsb' 3 5 = 0 := by
  ext i hi
  simp [byteB]

/-- Settles O37: the period byte of each split, field by field. -/
theorem periodLowByteFields : Obligations.PeriodLowByteFields := by
  intro P l
  simp only [perloByte_high, perloByte_low, byteB_swapped_high]
  refine ⟨?_, ?_, by simp, ?_⟩
  · congr 1
    ext i hi
    simp [byteB]
  · ext i hi
    simp [byteB]
  · ext i hi
    have h : i < 8 := by omega
    simp [byteB, hi, h]

end Sys2Proof.Machine
end

section
/-! PROOFS. The memory of the block is the sink: what a run appends to its write trace, that no run reads it back, its image,
and the addresses written, by one voice and by two over one sink (20_memory.md). -/

namespace Sys2Proof.Machine

/-! ## Bursts -/

/-- The burst of a command is what the one equation of commands says it appends. -/
theorem burst_eq_writesOf (i : Instr) (s : State) : burst i s = writesOf i s.params s.voice := by
  simp [burst, burstBetween, exec_eq]

@[simp] theorem bursts_nil (s : State) : bursts [] s = [] := rfl

@[simp] theorem bursts_cons (i : Instr) (is : List Instr) (s : State) :
    bursts (i :: is) s = writesOf i s.params s.voice :: bursts is (stateAfter i s) := by
  rw [bursts, burst_eq_writesOf, exec_eq]

theorem execAll_trace (is : List Instr) (s : State) :
    ∃ t, execAll is s = .next t ∧ t.trace = s.trace ++ (bursts is s).flatten := by
  induction is generalizing s with
  | nil => exact ⟨s, rfl, by simp⟩
  | cons i is ih =>
    obtain ⟨t, hrun, htrace⟩ := ih (stateAfter i s)
    exact ⟨t, by rw [execAll_cons, hrun], by simp [htrace]⟩

/-- Settles O52: a run appends its bursts command by command; which burst a command has is its equation. -/
theorem traceIsTheConcatenationOfTheBursts : Obligations.TraceIsTheConcatenationOfTheBursts := by
  refine ⟨execAll_trace, fun i s => ?_⟩
  rw [burst_eq_writesOf]
  cases i <;> rfl

/-! ## Nothing reads the sink (20_memory.md R41) -/

/-- A command appends to the two output streams what it would append to any others. -/
theorem stateAfter_with_outputs (i : Instr) (s : State) (tr : List SinkWrite) (rs : List Result) :
    stateAfter i { s with trace := tr, results := rs } =
      { stateAfter i s with
        trace := tr ++ writesOf i s.params s.voice
        results := rs ++ resultsOf s.params i s.voice } := rfl

/-- Settles O53: by induction over the commands, each run from the output streams the one before has left. -/
theorem runsDoNotDependOnWhatTheSinkReceived : Obligations.RunsDoNotDependOnWhatTheSinkReceived := by
  intro is
  induction is with
  | nil =>
    intro s t tr rs hrun
    cases hrun
    exact ⟨[], [], by simp, by simp, by simp⟩
  | cons i is ih =>
    intro s t tr rs hrun
    rw [execAll_cons] at hrun
    obtain ⟨b, r, htrace, hresults, hrun'⟩ :=
      ih _ _ (tr ++ writesOf i s.params s.voice) (rs ++ resultsOf s.params i s.voice) hrun
    refine ⟨writesOf i s.params s.voice ++ b, resultsOf s.params i s.voice ++ r, ?_, ?_, ?_⟩
    · rw [htrace, stateAfter_trace, List.append_assoc]
    · rw [hresults, stateAfter_results, List.append_assoc]
    · rw [execAll_cons, stateAfter_with_outputs, hrun', List.append_assoc, List.append_assoc]

/-! ## The sink image (20_memory.md R43) -/

/-- Settles O55: the laws of the image of a trace, read for the trace of a machine. -/
theorem sinkImageIsTheLastByteWritten : Obligations.SinkImageIsTheLastByteWritten :=
  ⟨fun s a b v => imageOf_append_read s.trace a b v, fun _ => rfl, fun s => imageOf_wf s.trace⟩

/-! ## The addresses of one voice (20_memory.md R44) -/

theorem burst_addrs {i : Instr} {s : State} {w : SinkWrite} (h : w ∈ burst i s) : w.1 ∈ sinkAddrs s.params :=
  writesOf_addrs (burst_eq_writesOf i s ▸ h)

/-- A voice about to tick in full: its gate is on and a reset is pending. -/
def dueForFullTick (params : Params) : State :=
  { State.reset with params := params, voice := { Voice.reset with gate := true, resetEnvelope := true } }

@[simp] theorem dueForFullTick_params (params : Params) : (dueForFullTick params).params = params := rfl

/-- A full burst writes each of the four addresses once, in the order of the address map. -/
theorem burst_dueForFullTick_addrs (params : Params) (P : BitVec 11) (V : BitVec 4) :
    (burst (.tick P V) (dueForFullTick params)).map Prod.fst = sinkAddrs params := by
  have hdue : (dueForFullTick params).voice.perloDue params.periodSplit P = true := Bool.or_true _
  rw [burst_eq_writesOf, dueForFullTick_params, writesOf, tickBurst_full rfl hdue]
  rfl

/-- Settles O60: no burst leaves the four addresses, and a full tick reaches them all. -/
theorem everyWriteGoesToOneOfTheFourAddresses : Obligations.EveryWriteGoesToOneOfTheFourAddresses := by
  refine ⟨fun i s w => burst_addrs, fun params a => ⟨fun ha => ?_, ?_⟩⟩
  · rw [← burst_dueForFullTick_addrs params 0 0] at ha
    obtain ⟨⟨_, v⟩, hw, rfl⟩ := List.mem_map.mp ha
    exact ⟨.tick 0 0, dueForFullTick params, v, rfl, hw⟩
  · rintro ⟨i, s, v, rfl, hw⟩
    exact burst_addrs hw

/-! ## The bytes of a period (20_memory.md R46) -/

/-- The three high bits of a period, as a byte. -/
theorem toNat_period_high (P : BitVec 11) : ((P.extractLsb' 8 3).setWidth 8).toNat = P.toNat / 256 := by
  have := P.isLt
  simp only [BitVec.toNat_setWidth, BitVec.extractLsb'_toNat, Nat.shiftRight_eq_div_pow]
  omega

/-- The low byte of a word of any width. -/
theorem toNat_low_byte {n : Nat} (x : BitVec n) : (x.extractLsb' 0 8).toNat = x.toNat % 256 := by
  simp

/-- The high byte of 16 bits. -/
theorem toNat_high_byte (L : BitVec 16) : (L.extractLsb' 8 8).toNat = L.toNat / 256 := by
  have := L.isLt
  simp only [BitVec.extractLsb'_toNat, Nat.shiftRight_eq_div_pow]
  omega

/-- Settles O31: the index picks the block of addresses; the split picks which byte function is the high one. -/
theorem addressesAndPeriodBytes : Obligations.AddressesAndPeriodBytes := by
  refine ⟨⟨rfl, fun params => ⟨fun hch => ?_, fun hch => ?_⟩⟩, ⟨by decide, by decide⟩, fun P => ?_, fun L => ?_⟩
  · simp [addrCtrl, addrPerhi, addrPerlo, blockAt, hch]
  · simp [addrCtrl, addrPerhi, addrPerlo, blockAt, hch]
  · exact ⟨toNat_period_high P, toNat_low_byte P, toNat_low_byte P, toNat_period_high P⟩
  · exact ⟨toNat_low_byte L, toNat_high_byte L⟩

/-! ## Two voices over one sink: the schedule (20_memory.md R50, D28) -/

/-- A TURN, SAID ONCE: the voice takes its step, the other stays, and the sink receives the burst of the step. -/
theorem turn_spec {c : Channel} {p q : Pair} (h : p.stepVoice c = .next q) :
    step (p.get c) = .next (q.get c) ∧ (∀ d, d ≠ c → q.get d = p.get d) ∧
    q.sink = p.sink ++ burstBetween (p.get c) (q.get c) := by
  obtain ⟨t, hstep, rfl⟩ := stepVoice_cases h
  rw [get_set_same]
  exact ⟨hstep, fun d hd => get_set_other p c d t _ hd, rfl⟩

/-- A schedule that runs begins with a turn that does. -/
theorem run_of_run_cons {c : Channel} {cs : List Channel} {p q : Pair} (h : Pair.run (c :: cs) p = .next q) :
    ∃ r, p.stepVoice c = .next r ∧ Pair.run cs r = .next q := by
  rw [Pair.run] at h
  cases hturn : p.stepVoice c with
  | next r =>
    rw [hturn] at h
    exact ⟨r, rfl, h⟩
  | fault r => cases r
  | refused r =>
    rw [hturn] at h
    cases h

/-- What turns `cs` with the bursts `bs` make of the voice `c`: it runs alone, one step per turn of its own, and its turns
have the bursts of its steps. -/
def RunsAlone (c : Channel) (cs : List Channel) (bs : List (List SinkWrite)) (s t : State) : Prop :=
  Host.Core.run Sys2Proof.core (cs.count c) s = .next t ∧ turnsOf c cs bs = stepBursts (cs.count c) s ∧
  t.trace = s.trace ++ (turnsOf c cs bs).flatten

theorem RunsAlone.cons_same {c : Channel} {cs : List Channel} {bs : List (List SinkWrite)} {s r t : State}
    (hstep : step s = .next r) (h : RunsAlone c cs bs r t) : RunsAlone c (c :: cs) (burstBetween s r :: bs) s t := by
  obtain ⟨hrun, hturns, htrace⟩ := h
  obtain ⟨-, happend⟩ := step_appends hstep
  rw [RunsAlone, List.count_cons_self, turnsOf_same, run_succ _ hstep, stepBursts_succ _ hstep]
  refine ⟨hrun, congrArg _ hturns, ?_⟩
  rw [htrace, happend, List.flatten_cons, List.append_assoc]

theorem RunsAlone.cons_other {c d : Channel} {cs : List Channel} {b : List SinkWrite} {bs : List (List SinkWrite)}
    {s t : State} (hd : d ≠ c) (h : RunsAlone c cs bs s t) : RunsAlone c (d :: cs) (b :: bs) s t := by
  rwa [RunsAlone, List.count_cons_of_ne hd, turnsOf_other _ _ _ hd]

/-- The sink receives one burst per turn, and every voice runs alone. -/
theorem sink_of_run {cs : List Channel} {p q : Pair} (h : Pair.run cs p = .next q) :
    ∃ bs : List (List SinkWrite), bs.length = cs.length ∧ q.sink = p.sink ++ bs.flatten ∧
      ∀ c, RunsAlone c cs bs (p.get c) (q.get c) := by
  induction cs generalizing p with
  | nil =>
    cases h
    exact ⟨[], rfl, by simp, fun c => ⟨rfl, rfl, by simp⟩⟩
  | cons c cs ih =>
    obtain ⟨r, hturn, hrun⟩ := run_of_run_cons h
    obtain ⟨hstep, hother, hsink⟩ := turn_spec hturn
    obtain ⟨bs, hlength, hsink', halone⟩ := ih hrun
    refine ⟨burstBetween (p.get c) (r.get c) :: bs, by simp [hlength], by simp [hsink, hsink'], fun d => ?_⟩
    by_cases hd : c = d
    · subst hd
      exact (halone c).cons_same hstep
    · rw [← hother d (Ne.symm hd)]
      exact (halone d).cons_other hd

/-! ## Two voices over one sink: who writes where (60_exceptions.md R204) -/

/-- The addresses of the pair are those of one voice and the other's own. -/
theorem familyAddrs_perm {params other : Params} (haddrs : other.addrs = params.addrs) (hch : other.ch ≠ params.ch) :
    (familyAddrs params.addrs).Perm (sinkAddrs params ++ ownAddrs other) := by
  obtain ⟨c, _, addrs, _, _⟩ := params
  obtain ⟨d, _, _, _, _⟩ := other
  cases haddrs
  match c, d with
  | 0, 0 => exact absurd rfl hch
  | 1, 1 => exact absurd rfl hch
  | 0, 1 => exact .refl _
  | 1, 0 => exact .cons addrEnable (List.perm_append_comm (l₁ := [_, _, _]) (l₂ := [_, _, _]))

theorem sinkAddrs_sublist_familyAddrs (params : Params) : (sinkAddrs params).Sublist (familyAddrs params.addrs) := by
  obtain ⟨c, _, _, _, _⟩ := params
  match c with
  | 0 => exact List.sublist_append_left (sinkAddrs _) _
  | 1 => exact (List.sublist_append_right [_, _, _] [_, _, _]).cons_cons addrEnable

theorem distinctAddrs_of_family {params : Params} (h : (familyAddrs params.addrs).Nodup) : distinctAddrs params :=
  h.sublist (sinkAddrs_sublist_familyAddrs params)

theorem ownWrites_append (params : Params) (tr b : List SinkWrite) :
    ownWrites params (tr ++ b) = ownWrites params tr ++ ownWrites params b := List.filter_append ..

/-- What one voice sends never reaches the other's own addresses. -/
theorem ownWrites_of_other {params other : Params} (haddrs : other.addrs = params.addrs) (hch : other.ch ≠ params.ch)
    (hfamily : (familyAddrs params.addrs).Nodup) {b : List SinkWrite} (hb : ∀ w ∈ b, writeInv params w) :
    ownWrites other b = [] := by
  have hdisjoint := List.disjoint_of_nodup_append ((familyAddrs_perm haddrs hch).nodup hfamily)
  refine List.filter_eq_nil_iff.mpr fun w hw hown => ?_
  obtain ⟨haddr, -⟩ := hb w hw
  exact hdisjoint haddr (of_decide_eq_true hown)

/-- What a step sends is as the voice's parameters want it. -/
theorem burstBetween_inv {s t : State} (hd : distinctAddrs s.params) (h : step s = .next t) :
    ∀ w ∈ burstBetween s t, writeInv s.params w := by
  intro w hw
  rcases step_cases s with ⟨-, e⟩ | ⟨i, rest, -, e⟩ | ⟨r, -, -, e⟩ <;> cases e.symm.trans h
  · simp [burstBetween] at hw
  · exact writesOf_inv hd (by simpa [burstBetween] using hw)

/-- A turn changes the parameters of neither voice. -/
theorem turn_params {c : Channel} {p q : Pair} (h : p.stepVoice c = .next q) (d : Channel) :
    (q.get d).params = (p.get d).params := by
  obtain ⟨hstep, hother, -⟩ := turn_spec h
  obtain ⟨hparams, -⟩ := step_appends hstep
  by_cases hd : d = c
  · rw [hd, hparams]
  · rw [hother d hd]

/-- Under the invariant either voice has the address functions of the pair. -/
theorem get_addrs {p : Pair} (h : p.voice1.params.addrs = p.voice0.params.addrs) (c : Channel) :
    (p.get c).params.addrs = p.voice0.params.addrs := by
  match c with
  | 0 => rfl
  | 1 => exact h

/-- Under the invariant, what a turn sends is as the parameters of its voice want it. -/
theorem turn_burst_inv {c : Channel} {p q : Pair} (hp : p.inv) (h : p.stepVoice c = .next q) :
    ∀ w ∈ burstBetween (p.get c) (q.get c), writeInv (p.get c).params w := by
  obtain ⟨haddrs, hfamily, -, -⟩ := hp
  obtain ⟨hstep, -, -⟩ := turn_spec h
  exact burstBetween_inv (distinctAddrs_of_family (by rwa [get_addrs haddrs])) hstep

/-- A turn keeps the invariant of the pair: its writes are added to the sink and to the trace of its voice alike, and are
none of the other voice's own. -/
theorem turn_inv {c : Channel} {p q : Pair} (hp : p.inv) (h : p.stepVoice c = .next q) : q.inv := by
  have hb := turn_burst_inv hp h
  obtain ⟨haddrs, hfamily, hsinkAddrs, hvoices⟩ := hp
  obtain ⟨hstep, hother, hsink⟩ := turn_spec h
  obtain ⟨-, htrace⟩ := step_appends hstep
  have hparams := turn_params h
  have hparams0 : q.voice0.params = p.voice0.params := hparams 0
  have hparams1 : q.voice1.params = p.voice1.params := hparams 1
  rw [Pair.inv, hparams0, hparams1, hsink]
  refine ⟨haddrs, hfamily, fun w hw => ?_, fun d => ?_⟩
  · rcases List.mem_append.mp hw with hw | hw
    · exact hsinkAddrs w hw
    · obtain ⟨haddr, -⟩ := hb w hw
      rw [← get_addrs haddrs c]
      exact (sinkAddrs_sublist_familyAddrs _).subset haddr
  · obtain ⟨hch, hwrites, hown⟩ := hvoices d
    rw [hparams d, ownWrites_append, hown]
    refine ⟨hch, ?_⟩
    by_cases hd : d = c
    · subst hd
      rw [htrace, ownWrites_append]
      exact ⟨fun w hw => (List.mem_append.mp hw).elim (hwrites w) (hb w), rfl⟩
    · obtain ⟨hchc, -, -⟩ := hvoices c
      rw [hother d hd, ownWrites_of_other (params := (p.get c).params) ?_ (by rwa [hch, hchc]) ?_ hb]
      · exact ⟨hwrites, List.append_nil _⟩
      · rw [get_addrs haddrs, get_addrs haddrs]
      · rwa [get_addrs haddrs]

/-- The pair as it is meant to be, and the enable mask the only byte its sink has received at `ENABLE`. -/
def Pair.EnableShared (p : Pair) : Prop := p.inv ∧ ∀ w ∈ p.sink, w.1 = addrEnable → w.2 = 0x03

theorem Pair.EnableShared.turn {c : Channel} {p q : Pair} (hp : p.EnableShared) (h : p.stepVoice c = .next q) :
    q.EnableShared := by
  obtain ⟨hinv, henable⟩ := hp
  obtain ⟨-, -, hsink⟩ := turn_spec h
  refine ⟨turn_inv hinv h, fun w hw => ?_⟩
  rw [hsink] at hw
  rcases List.mem_append.mp hw with hw | hw
  · exact henable w hw
  · obtain ⟨-, hmask, -⟩ := turn_burst_inv hinv h w hw
    exact hmask

theorem Pair.EnableShared.run {cs : List Channel} {p q : Pair} (hp : p.EnableShared) (h : Pair.run cs p = .next q) :
    q.EnableShared := by
  induction cs generalizing p with
  | nil =>
    cases h
    exact hp
  | cons c cs ih =>
    obtain ⟨r, hturn, hrun⟩ := run_of_run_cons h
    exact ih (hp.turn hturn) hrun

/-- Settles O59: turn by turn, for the bursts (`sink_of_run`) and for the invariant of the pair (`EnableShared.run`). -/
theorem sharedSinkIsAnInterleavingUnderEverySchedule : Obligations.SharedSinkIsAnInterleavingUnderEverySchedule :=
  fun _ _ _ h => ⟨sink_of_run h, fun hinv henable => Pair.EnableShared.run ⟨hinv, henable⟩ h⟩

end Sys2Proof.Machine
end

section
/-! PROOFS. The encoding of commands: decode and encode undo each other, the opcode table names the decoded command, the
words that spell no command are refused for their reason, the status port, and the pseudo-commands (30_encoding.md). -/

namespace Sys2Proof.Machine

/-! ## Decoding each format's word (30_encoding.md R61) -/

theorem ofByte_opcodeOf {w : Word} {op : Op} (h : opcodeOf w = op.byte) : Op.ofByte (opcodeOf w) = some op := by
  rw [h, Op.ofByte_byte]

theorem decode_wordF (sel : Selectors) (e p : Byte) (ws : List Word) :
    decode sel (wordF e p :: ws) = .ok (decodeFx sel e p, ws) := by
  rw [decode_assigned sel (op := .fx) ws (by simp)]
  simp [oneWord]

/-- A `ROW` header is followed by as many columns as it asks for. -/
theorem decode_wordR (sel : Selectors) (k : RowKind) (n : BitVec 4) (o x : BitVec 3) {ws rest : List Word} {fx : List Fx}
    (h : decodeExts x.toNat ws = .ok (fx, rest)) : decode sel (wordR k n o x :: ws) = .ok (.row k n o fx, rest) := by
  rw [decode_assigned sel (op := .row) ws (by simp)]
  simp [decodeRow, nfxOf, h]

/-- The columns of a `ROW` that has no more than 7, read back as many as its header counts. -/
theorem decodeExts_counted {fx : List Fx} (h : fx.length ≤ 7) (rest : List Word) :
    decodeExts (BitVec.ofNat 3 fx.length).toNat (fx.map (fun c => wordF c.e c.p) ++ rest) = .ok (fx, rest) := by
  rw [BitVec.toNat_ofNat, Nat.mod_eq_of_lt (by omega)]
  exact decodeExts_encoded fx rest

/-- Settles O6: constructor by constructor, for a `ROW` by its counted columns and for the effects by the dispatch of the
selector and parameter. -/
theorem decodeOfEncodeIsTheCommand : Obligations.DecodeOfEncodeIsTheCommand := by
  intro sel i rest hwf
  cases i with
  | row k n o fx => exact decode_wordR sel k n o _ (decodeExts_counted (of_decide_eq_true hwf) rest)
  | volfxLen p => exact (decode_wordF ..).trans (by rw [decodeFx_len]; rfl)
  | volfxMode p => exact (decode_wordF ..).trans (by rw [decodeFx_mode]; rfl)
  | volfxIgn p => exact (decode_wordF ..).trans (by rw [decodeFx_ign sel hwf]; rfl)
  | dutyfx p => exact (decode_wordF ..).trans (by rw [decodeFx_duty (bne_iff_ne.mp hwf)]; rfl)
  | fxother e p => exact (decode_wordF ..).trans (by rw [decodeFx_other hwf]; rfl)
  | tick P V => exact decode_wordT sel P V rest
  | _ => simp [encode, decode, oneWord]

/-! ## What decodes is the words of a command (30_encoding.md R72, R73) -/

/-- What is decoded as a `ROW` is a `ROW` of at most 7 columns, and its words. -/
theorem row_of_decodeRow {sel : Selectors} {w : Word} {ws rest : List Word} {i : Instr} (hop : opcodeOf w = Op.byte .row)
    (h : decodeRow w ws = .ok (i, rest)) :
    ∃ k n o fx, i = .row k n o fx ∧ i.wellFormed sel = true ∧ w :: ws = encode sel i ++ rest := by
  simp only [decodeRow] at h
  split_ifs at h with hz
  split at h
  · cases h
  · next fx rest' hexts =>
    cases h
    obtain ⟨hlen, rfl⟩ := eq_of_decodeExts hexts
    have hlt : nfxOf w < 8 := (w.extractLsb' 12 3).isLt
    refine ⟨_, _, _, _, rfl, decide_eq_true (by omega), ?_⟩
    have hcount : BitVec.ofNat 3 fx.length = w.extractLsb' 12 3 := by
      rw [hlen, nfxOf, BitVec.ofNat_toNat, BitVec.setWidth_eq]
    rw [encode, hcount, ← eq_wordR hop hz]
    rfl

/-- Settles O7: opcode by opcode, the word is put together again from its fields (the lemmas `eq_word…`). -/
theorem decodedWordsAreTheWordsOfTheCommand : Obligations.DecodedWordsAreTheWordsOfTheCommand := by
  intro sel ws rest i h
  cases ws with
  | nil => cases h
  | cons w ws =>
    cases hof : Op.ofByte (opcodeOf w) with
    | none => rw [decode_unassigned sel ws hof] at h; cases h
    | some op =>
      have hop := Op.byte_of_ofByte hof
      rw [decode_assigned sel ws hof] at h
      cases op with
      | row =>
        obtain ⟨-, -, -, -, -, hwf, hw⟩ := row_of_decodeRow hop h
        exact ⟨hwf, hw⟩
      | fx =>
        obtain ⟨hz, rfl, rfl⟩ := oneWord_eq_ok.mp h
        obtain ⟨hwf, henc⟩ := encode_decodeFx sel (w.extractLsb' 8 8) (w.extractLsb' 0 8)
        exact ⟨hwf, by rw [henc, ← eq_wordF hop hz]; rfl⟩
      | note =>
        obtain ⟨hz, rfl, rfl⟩ := oneWord_eq_ok.mp h
        obtain ⟨hhigh, hlow⟩ := Bool.and_eq_true_iff.mp hz
        exact ⟨rfl, congrArg (· :: ws) (eq_wordN hop hhigh hlow)⟩
      | inst =>
        obtain ⟨hz, rfl, rfl⟩ := oneWord_eq_ok.mp h
        exact ⟨rfl, congrArg (· :: ws) (eq_wordI hop hz)⟩
      | tick =>
        obtain ⟨hz, rfl, rfl⟩ := oneWord_eq_ok.mp h
        exact ⟨rfl, congrArg (· :: ws) (eq_wordT hop hz)⟩
      | seqduty | cvd =>
        obtain ⟨hz, rfl, rfl⟩ := oneWord_eq_ok.mp h
        exact ⟨rfl, congrArg (· :: ws) (eq_wordB hop hz)⟩
      | rst | empty | cut | rel | clr | effstr =>
        obtain ⟨hz, rfl, rfl⟩ := oneWord_eq_ok.mp h
        exact ⟨rfl, congrArg (· :: ws) (eq_wordZ hop hz)⟩


/-! ## The must-be-zero bits as masks (30_encoding.md R70, R72) -/

/-- The mask of the field of `n` bits from bit `lo` up. -/
def fieldMask (lo n : Nat) : Word := (BitVec.allOnes n).setWidth 32 <<< lo

/-- Two words agree under the mask of a field exactly where they agree on the field. -/
theorem and_fieldMask_eq_iff (w x : Word) (lo n : Nat) :
    w &&& fieldMask lo n = x &&& fieldMask lo n ↔ w.extractLsb' lo n = x.extractLsb' lo n := by
  unfold fieldMask
  constructor <;> intro h
  · ext i hi
    have hbit := congrArg (BitVec.getLsbD · (lo + i)) h
    by_cases hlt : lo + i < 32
    · have hi32 : i < 32 := by omega
      simpa [hi, hlt, hi32] using hbit
    · rw [BitVec.getElem_extractLsb', BitVec.getElem_extractLsb', BitVec.getLsbD_of_ge w _ (by omega),
        BitVec.getLsbD_of_ge x _ (by omega)]
  · ext i hi
    by_cases hin : lo ≤ i ∧ i - lo < n
    · obtain ⟨hlo, hn⟩ := hin
      have hbit := congrArg (BitVec.getLsbD · (i - lo)) h
      simpa [hlo, hn, hi, Nat.not_lt_of_le hlo] using hbit
    · have hout : i < lo ∨ n ≤ i - lo := by omega
      rcases hout with hlo | hn
      · simp [hlo]
      · simp [Nat.not_lt_of_le hn]

theorem zeroField_eq_mask (w : Word) (lo n : Nat) : zeroField w lo n = decide (w &&& fieldMask lo n = 0) := by
  have h := and_fieldMask_eq_iff w 0#32 lo n
  rw [BitVec.zero_and, BitVec.extractLsb'_zero] at h
  rw [zeroField, Bool.beq_eq_decide_eq]
  exact decide_eq_decide.mpr h.symm

/-- The opcode is what its mask leaves. -/
theorem and_opcodeMask_eq_iff (w : Word) (op : Op) : w &&& 0xFF000000#32 = opWord op ↔ opcodeOf w = op.byte := by
  have hword : opWord op = opWord op &&& 0xFF000000#32 := by cases op <;> rfl
  rw [hword, ← opcodeOf_wordZ op]
  exact and_fieldMask_eq_iff w (opWord op) 24 8

/-- The must-be-zero bits of the first word of a command with that opcode. -/
def zeroMask : Op → Word
  | .rst | .empty | .cut | .rel | .clr | .effstr => 0x00FFFFFF#32
  | .row => 0x00000FFF#32
  | .note => 0x00C07FFF#32
  | .fx => 0x00FF0000#32
  | .inst => 0x00FFFFF8#32
  | .seqduty | .cvd => 0x00FFFF00#32
  | .tick => 0x00FF8000#32

/-- The mnemonic of an opcode's row; of `FX`, that of the row of the selectors no other row names. -/
def rowMnemonic : Op → String
  | .rst => "RST"
  | .row => "ROW"
  | .empty => "EMPTY"
  | .cut => "CUT"
  | .rel => "REL"
  | .note => "NOTE"
  | .fx => "FXOTHER"
  | .inst => "INST"
  | .seqduty => "SEQDUTY"
  | .tick => "TICK"
  | .clr => "CLR"
  | .effstr => "EFFSTR"
  | .cvd => "CVD"

/-- The row of the opcode table that every first word of a command with that opcode belongs to. -/
def headRow (op : Op) : TableRow := ⟨rowMnemonic op, opWord op, 0xFF000000#32 ||| zeroMask op⟩

/-- A word is of the opcode's row when it carries the opcode and its must-be-zero bits are zero. -/
theorem headRow_covers_iff (w : Word) (op : Op) :
    (headRow op).covers w = true ↔ opcodeOf w = op.byte ∧ w &&& zeroMask op = 0 := by
  have hopMask : (headRow op).mask &&& 0xFF000000#32 = 0xFF000000#32 := by cases op <;> rfl
  have hop : opWord op &&& 0xFF000000#32 = opWord op := by cases op <;> rfl
  have hzeroMask : (headRow op).mask &&& zeroMask op = zeroMask op := by cases op <;> rfl
  have hzero : opWord op &&& zeroMask op = 0 := by cases op <;> rfl
  rw [← and_opcodeMask_eq_iff, TableRow.covers, beq_iff_eq]
  constructor
  · intro h
    constructor
    · rw [← hopMask, ← BitVec.and_assoc, h]
      exact hop
    · rw [← hzeroMask, ← BitVec.and_assoc, h]
      exact hzero
  · rintro ⟨hw, hz⟩
    rw [headRow, BitVec.and_or_distrib_left, hw, hz]
    exact BitVec.or_zero

/-- No word is of two opcodes' rows. -/
theorem op_unique {w : Word} {a b : Op} (ha : (headRow a).covers w = true) (hb : (headRow b).covers w = true) : a = b :=
  Op.byte_injective (((headRow_covers_iff w a).mp ha).1.symm.trans ((headRow_covers_iff w b).mp hb).1)

/-! ## Decoding by the first word -/

/-- The command a first word with that opcode stands for, its columns left out. -/
def headCommand (sel : Selectors) (w : Word) : Op → Instr
  | .rst => .rst
  | .row => .row (RowKind.ofBits (w.extractLsb' 22 2)) (w.extractLsb' 18 4) (w.extractLsb' 15 3) []
  | .empty => .empty
  | .cut => .cut
  | .rel => .rel
  | .note => .note (w.extractLsb' 18 4) (w.extractLsb' 15 3)
  | .fx => decodeFx sel (w.extractLsb' 8 8) (w.extractLsb' 0 8)
  | .inst => .inst (w.extractLsb' 0 3)
  | .seqduty => .seqduty (w.extractLsb' 0 8)
  | .tick => .tick (w.extractLsb' 4 11) (w.extractLsb' 0 4)
  | .clr => .clr
  | .effstr => .effstr
  | .cvd => .cvd (w.extractLsb' 0 8)

/-- The must-be-zero bits of `NOTE` are two fields. -/
theorem zeroFields_note (w : Word) : (zeroField w 22 2 && zeroField w 0 15) = decide (w &&& zeroMask .note = 0) := by
  have hmask : zeroMask .note = fieldMask 22 2 ||| fieldMask 0 15 := rfl
  rw [zeroField_eq_mask, zeroField_eq_mask, hmask, BitVec.and_or_distrib_left, ← Bool.decide_and]
  exact decide_eq_decide.mpr BitVec.or_eq_zero_iff.symm

/-- Every command but `ROW` is told by its first word. -/
theorem decode_of_opcode (sel : Selectors) {w : Word} {op : Op} (ws : List Word) (hop : opcodeOf w = op.byte)
    (hrow : op ≠ .row) :
    decode sel (w :: ws) = oneWord (decide (w &&& zeroMask op = 0)) (headCommand sel w op) ws := by
  rw [decode_assigned sel ws (ofByte_opcodeOf hop)]
  cases op with
  | row => exact absurd rfl hrow
  | note => rw [← zeroFields_note]; rfl
  | fx => exact congrArg (oneWord · _ ws) (zeroField_eq_mask w 16 8)
  | inst => exact congrArg (oneWord · _ ws) (zeroField_eq_mask w 3 21)
  | seqduty | cvd => exact congrArg (oneWord · _ ws) (zeroField_eq_mask w 8 16)
  | tick => exact congrArg (oneWord · _ ws) (zeroField_eq_mask w 15 9)
  | rst | empty | cut | rel | clr | effstr => exact congrArg (oneWord · _ ws) (zeroField_eq_mask w 0 24)

theorem decode_of_opcode_row (sel : Selectors) {w : Word} (ws : List Word) (hop : opcodeOf w = Op.byte .row) :
    decode sel (w :: ws) = decodeRow w ws :=
  decode_assigned sel ws (ofByte_opcodeOf hop)

/-- A first word with a must-be-zero bit that is not zero spells no command (30_encoding.md R72). -/
theorem decode_nonZero (sel : Selectors) {w : Word} {op : Op} (ws : List Word) (hop : opcodeOf w = op.byte)
    (hz : w &&& zeroMask op ≠ 0) : decode sel (w :: ws) = .error .nonZeroMustBeZero := by
  by_cases hrow : op = .row
  · subst hrow
    have hfield : zeroField w 0 12 = false := (zeroField_eq_mask w 0 12).trans (decide_eq_false hz)
    rw [decode_of_opcode_row sel ws hop, decodeRow, hfield]
    rfl
  · rw [decode_of_opcode sel ws hop hrow, decide_eq_false hz]
    rfl

/-- A first word of an opcode other than `ROW`'s spells the command it stands for. -/
theorem decode_of_head (sel : Selectors) {w : Word} {op : Op} (ws : List Word) (h : (headRow op).covers w = true)
    (hrow : op ≠ .row) : decode sel (w :: ws) = .ok (headCommand sel w op, ws) := by
  obtain ⟨hop, hz⟩ := (headRow_covers_iff w op).mp h
  rw [decode_of_opcode sel ws hop hrow, decide_eq_true hz]
  rfl

/-- What decodes begins with a first word of some opcode, and is of the row its first word stands for. -/
theorem head_of_decode {sel : Selectors} {w : Word} {ws rest : List Word} {i : Instr}
    (h : decode sel (w :: ws) = .ok (i, rest)) :
    ∃ op, (headRow op).covers w = true ∧ i.mnemonic = (headCommand sel w op).mnemonic := by
  cases hof : Op.ofByte (opcodeOf w) with
  | none => rw [decode_unassigned sel ws hof] at h; cases h
  | some op =>
    have hop := Op.byte_of_ofByte hof
    by_cases hz : w &&& zeroMask op = 0
    · refine ⟨op, (headRow_covers_iff w op).mpr ⟨hop, hz⟩, ?_⟩
      by_cases hrow : op = .row
      · subst hrow
        obtain ⟨k, n, o, fx, rfl, -, -⟩ :=
          row_of_decodeRow (sel := sel) hop ((decode_of_opcode_row sel ws hop).symm.trans h)
        rfl
      · rw [decode_of_opcode sel ws hop hrow] at h
        obtain ⟨-, rfl, -⟩ := oneWord_eq_ok.mp h
        rfl
    · rw [decode_nonZero sel ws hop hz] at h
      cases h

/-! ## The rows of the opcode table (30_encoding.md R70) -/

/-- A row of one selector's effect: the words whose parameter is `q` under the mask `m` (41_effect_commands.md R110). -/
def paramRow (mnemonic : String) (e q m : Byte) : TableRow := ⟨mnemonic, wordF e q, 0xFFFFFF00#32 ||| m.setWidth 32⟩

/-- The rows of the volume and the duty effect. -/
def paramRows (sel : Selectors) : List TableRow :=
  [paramRow "VOLFX.LEN" sel.efVolume 0 0xE0, paramRow "VOLFX.MODE" sel.efVolume 0xE0 0xFC,
    paramRow "VOLFX.IGN" sel.efVolume 0 0, paramRow "DUTYFX" sel.efDuty 0 0]

/-- The opcodes before `FX`, whose rows come before those of the effects. -/
def opsBeforeFx : List Op := [.rst, .row, .empty, .cut, .rel, .note]

/-- The opcodes after `FX`. -/
def opsAfterFx : List Op := [.inst, .seqduty, .tick, .clr, .effstr, .cvd]

/-- The table is one row per opcode, and before the row of `FX` those of its two selectors. -/
theorem opcodeTable_eq (sel : Selectors) :
    opcodeTable sel = opsBeforeFx.map headRow ++ (paramRows sel ++ headRow .fx :: opsAfterFx.map headRow) := by
  have hzero (e : Byte) : wordF e 0 = selectorPat e := BitVec.or_zero
  simp only [paramRows, paramRow, hzero]
  rfl

theorem headRow_mem (sel : Selectors) (op : Op) : headRow op ∈ opcodeTable sel := by
  have hop : op ∈ opsBeforeFx ∨ op = .fx ∨ op ∈ opsAfterFx := by cases op <;> decide
  rw [opcodeTable_eq]
  rcases hop with hop | rfl | hop
  · exact List.mem_append_left _ (List.mem_map_of_mem hop)
  · exact List.mem_append_right _ (List.mem_append_right _ List.mem_cons_self)
  · exact List.mem_append_right _ (List.mem_append_right _ (List.mem_cons_of_mem _ (List.mem_map_of_mem hop)))

theorem headRow_or_paramRow {sel : Selectors} {r : TableRow} (h : r ∈ opcodeTable sel) :
    (∃ op, r = headRow op) ∨ ∃ m e q k, r = paramRow m e q k := by
  rw [opcodeTable_eq] at h
  rcases List.mem_append.mp h with h | h
  · obtain ⟨op, -, rfl⟩ := List.mem_map.mp h
    exact .inl ⟨op, rfl⟩
  rcases List.mem_append.mp h with h | h
  · right
    simp only [paramRows, List.mem_cons, List.not_mem_nil, or_false] at h
    rcases h with rfl | rfl | rfl | rfl <;> exact ⟨_, _, _, _, rfl⟩
  · rcases List.mem_cons.mp h with rfl | h
    · exact .inl ⟨.fx, rfl⟩
    · obtain ⟨op, -, rfl⟩ := List.mem_map.mp h
      exact .inl ⟨op, rfl⟩

/-! ## Words of format F and the rows of the effects -/

theorem headRow_covers_wordF (e p : Byte) : (headRow .fx).covers (wordF e p) = true := by
  refine (headRow_covers_iff _ _).mpr ⟨opcodeOf_wordF e p, ?_⟩
  exact of_decide_eq_true ((zeroField_eq_mask _ 16 8).symm.trans (zeroField_wordF e p))

/-- A word of the row of `FX` is the format-F word of its selector and parameter. -/
theorem eq_wordF_of_covers {w : Word} (h : (headRow .fx).covers w = true) :
    w = wordF (w.extractLsb' 8 8) (w.extractLsb' 0 8) := by
  obtain ⟨hop, hz⟩ := (headRow_covers_iff w .fx).mp h
  exact eq_wordF hop ((zeroField_eq_mask w 16 8).trans (decide_eq_true hz))

/-- Above the parameter a mask of a row of one selector keeps everything. -/
theorem wordF_and_paramMask (e p m : Byte) :
    wordF e p &&& (0xFFFFFF00#32 ||| m.setWidth 32) = wordF e (p &&& m) := by
  unfold wordF opWord
  ext i hi
  simp
  interval_cases i <;> simp [Op.byte]

theorem wordF_inj {e e' p p' : Byte} : wordF e p = wordF e' p' ↔ e = e' ∧ p = p' := by
  constructor
  · intro h
    exact ⟨by rw [← wordF_selector e p, h, wordF_selector], by rw [← wordF_param e p, h, wordF_param]⟩
  · rintro ⟨rfl, rfl⟩
    rfl

@[simp] theorem paramRow_mnemonic (mnemonic : String) (e q m : Byte) : (paramRow mnemonic e q m).mnemonic = mnemonic := rfl

theorem paramRow_covers_wordF (mnemonic : String) (e q m e' p : Byte) :
    (paramRow mnemonic e q m).covers (wordF e' p) = decide (e' = e ∧ p &&& m = q) := by
  rw [TableRow.covers, Bool.beq_eq_decide_eq, paramRow, wordF_and_paramMask]
  exact decide_eq_decide.mpr wordF_inj

/-- A row of one selector's effect covers words of the row of `FX` alone. -/
theorem headRow_covers_of_paramRow {mnemonic : String} {e q m : Byte} {w : Word}
    (h : (paramRow mnemonic e q m).covers w = true) : (headRow .fx).covers w = true := by
  have hmask : ∀ m : Byte, (0xFFFFFF00#32 ||| m.setWidth 32) &&& (headRow .fx).mask = (headRow .fx).mask := by decide
  have hw : w &&& (0xFFFFFF00#32 ||| m.setWidth 32) = wordF e q := beq_iff_eq.mp h
  rw [TableRow.covers, ← hmask m, ← BitVec.and_assoc, hw]
  exact headRow_covers_wordF e q

/-- A row that covers a word carries the word's opcode, and for every opcode but `FX` it is the opcode's one row. -/
theorem row_of_covers {sel : Selectors} {r : TableRow} {w : Word} (hr : r ∈ opcodeTable sel) (h : r.covers w = true) :
    ∃ op, (headRow op).covers w = true ∧ (op ≠ .fx → r = headRow op) ∧ r.pat &&& 0xFF000000#32 = opWord op := by
  rcases headRow_or_paramRow hr with ⟨op, rfl⟩ | ⟨mnemonic, e, q, m, rfl⟩
  · exact ⟨op, h, fun _ => rfl, (and_opcodeMask_eq_iff _ op).mpr (opcodeOf_wordZ op)⟩
  · exact ⟨.fx, headRow_covers_of_paramRow h, fun hfx => absurd rfl hfx,
      (and_opcodeMask_eq_iff _ .fx).mpr (opcodeOf_wordF e q)⟩

/-! ## The first row of a word -/

theorem covers_of_firstRow {sel : Selectors} {w : Word} {r : TableRow} (h : firstRow sel w = some r) :
    r ∈ opcodeTable sel ∧ r.covers w = true :=
  ⟨List.mem_of_find?_eq_some h, by simpa using List.find?_some h⟩

theorem firstRow_isSome {sel : Selectors} {w : Word} {op : Op} (h : (headRow op).covers w = true) :
    ∃ r, firstRow sel w = some r :=
  Option.isSome_iff_exists.mp (List.find?_isSome.mpr ⟨_, headRow_mem sel op, h⟩)

/-- The rows before those of `FX` cover none of its words, and its last row covers them all. -/
theorem firstRow_wordF (sel : Selectors) (e p : Byte) :
    firstRow sel (wordF e p) = ((paramRows sel).find? (fun r => r.covers (wordF e p))).or (some (headRow .fx)) := by
  have hbefore : (opsBeforeFx.map headRow).find? (fun r => r.covers (wordF e p)) = none := by
    refine List.find?_eq_none.mpr fun r hr hc => ?_
    obtain ⟨op, hop, rfl⟩ := List.mem_map.mp hr
    cases op_unique hc (headRow_covers_wordF e p)
    exact absurd hop (by decide)
  have hfx : (headRow .fx :: opsAfterFx.map headRow).find? (fun r => r.covers (wordF e p)) = some (headRow .fx) :=
    List.find?_cons_of_pos (headRow_covers_wordF e p)
  rw [firstRow, opcodeTable_eq, List.find?_append, hbefore, Option.none_or, List.find?_append, hfx]

theorem and_lenMask_eq_zero_iff (p : Byte) : p &&& 0xE0 = 0 ↔ p < 0x20#8 := by
  revert p; decide

theorem and_modeMask_eq_iff (p : Byte) : p &&& 0xFC = 0xE0 ↔ 0xE0#8 ≤ p ∧ p < 0xE4#8 := by
  revert p; decide

/-- The rows of `FX` stand in the order of its dispatch (41_effect_commands.md R110). -/
theorem firstRow_wordF_mnemonic (sel : Selectors) (e p : Byte) :
    (firstRow sel (wordF e p)).map (·.mnemonic) = some (decodeFx sel e p).mnemonic := by
  have hall : p &&& 0 = 0 := BitVec.and_zero
  have hother : (headRow .fx).mnemonic = "FXOTHER" := rfl
  simp only [firstRow_wordF, paramRows, List.find?_cons, List.find?_nil, paramRow_covers_wordF, and_lenMask_eq_zero_iff,
    and_modeMask_eq_iff, hall, and_true, decodeFx]
  split_ifs with he hl hm hd
  · simp [he, hl, Instr.mnemonic]
  · simp [he, hl, hm, Instr.mnemonic]
  · simp [he, hl, hm, Instr.mnemonic]
  · simp [hd, hd ▸ he, Instr.mnemonic]
  · simp [he, hd, hother, Instr.mnemonic]

/-- The first row that covers a word names the command the word stands for. -/
theorem firstRow_mnemonic (sel : Selectors) {w : Word} {op : Op} (h : (headRow op).covers w = true) :
    (firstRow sel w).map (·.mnemonic) = some (headCommand sel w op).mnemonic := by
  by_cases hfx : op = .fx
  · subst hfx
    rw [eq_wordF_of_covers h, firstRow_wordF_mnemonic, headCommand, wordF_selector, wordF_param]
  · obtain ⟨r, hr⟩ := firstRow_isSome (sel := sel) h
    obtain ⟨hmem, hc⟩ := covers_of_firstRow hr
    obtain ⟨op', hop', hrow, -⟩ := row_of_covers hmem hc
    cases op_unique h hop'
    rw [hr, hrow hfx]
    cases op with
    | fx => exact absurd rfl hfx
    | _ => rfl

/-- Settles O8: a covered word is a first word of its opcode, which decodes as its row says; and only `FX` has more rows than
one. -/
theorem firstTableRowNamesTheDecodedCommand : Obligations.FirstTableRowNamesTheDecodedCommand := by
  refine fun sel => ⟨fun w ws rest i h => ?_, fun w ws h => ?_, fun w ws r h hname => ?_,
    fun r₁ hr₁ r₂ hr₂ hne w h₁ h₂ => ?_⟩
  · obtain ⟨op, hop, hi⟩ := head_of_decode h
    rw [hi]
    exact firstRow_mnemonic sel hop
  · cases hd : decode sel (w :: ws) with
    | error r => exact ⟨r, rfl⟩
    | ok q =>
      obtain ⟨op, hop, -⟩ := head_of_decode hd
      obtain ⟨r, hr⟩ := firstRow_isSome (sel := sel) hop
      cases h.symm.trans hr
  · obtain ⟨hmem, hc⟩ := covers_of_firstRow h
    obtain ⟨op, hop, hrow, -⟩ := row_of_covers hmem hc
    refine ⟨_, decode_of_head sel ws hop ?_⟩
    rintro rfl
    exact hname (congrArg TableRow.mnemonic (hrow (by decide)))
  · obtain ⟨op, hop, hrow₁, hpat₁⟩ := row_of_covers hr₁ h₁
    obtain ⟨op', hop', hrow₂, hpat₂⟩ := row_of_covers hr₂ h₂
    cases op_unique hop hop'
    by_cases hfx : op = .fx
    · subst hfx
      exact ⟨((headRow_covers_iff w .fx).mp hop).1, hpat₁, hpat₂⟩
    · exact absurd ((hrow₁ hfx).trans (hrow₂ hfx).symm) hne

/-! ## Words that spell no command (30_encoding.md R72, R73) -/

/-- A step is refused for the decoder's reason. -/
theorem step_of_decode_error {s : State} {w : Word} {ws : List Word} {r : DecodeError}
    (h : decode s.params.selectors (w :: ws) = .error r) :
    step { s with port := w :: ws } = .refused (.spellsNoCommand r) := by
  rcases step_cases { s with port := w :: ws } with ⟨hp, -⟩ | ⟨i, rest, hd, -⟩ | ⟨r', -, hd, e⟩
  · cases hp
  · cases hd.symm.trans h
  · cases hd.symm.trans h
    exact e

/-- Columns do not help where the extension words after them fail (30_encoding.md R73). -/
theorem decodeExts_error_after {n : Nat} {ws : List Word} {r : DecodeError} (h : decodeExts n ws = .error r)
    (fx : List Fx) : decodeExts (fx.length + n) (fx.map (fun c => wordF c.e c.p) ++ ws) = .error r := by
  induction fx with
  | nil => rwa [List.length_nil, Nat.zero_add]
  | cons c fx ih =>
    rw [List.length_cons, Nat.add_right_comm]
    simp [decodeExts, ih]

/-- A `ROW` is refused where, after some columns, the extension words still asked for are. -/
theorem decode_wordR_error (sel : Selectors) (k : RowKind) (n : BitVec 4) (o : BitVec 3) {x : BitVec 3} {fx : List Fx}
    {ws : List Word} {r : DecodeError} (hlt : fx.length < x.toNat) (h : ∀ m, decodeExts (m + 1) ws = .error r) :
    decode sel (wordR k n o x :: (fx.map (fun c => wordF c.e c.p) ++ ws)) = .error r := by
  obtain ⟨m, hm⟩ := Nat.exists_eq_add_of_lt hlt
  have hexts : decodeExts x.toNat (fx.map (fun c => wordF c.e c.p) ++ ws) = .error r := by
    rw [hm, Nat.add_assoc]
    exact decodeExts_error_after (h m) fx
  rw [decode_of_opcode_row sel _ (opcodeOf_wordR ..)]
  simp [decodeRow, nfxOf, hexts]

/-- An extension word is a first word of the opcode 0x06. -/
theorem decodeExt_eq_none {w : Word} (h : ¬ (opcodeOf w = 0x06 ∧ w &&& 0x00FF0000#32 = 0)) : decodeExt w = none := by
  refine if_neg fun hw => h ⟨hw.1, ?_⟩
  exact of_decide_eq_true ((zeroField_eq_mask w 16 8).symm.trans hw.2)

/-- Settles O9: the opcode, the mask of each opcode's must-be-zero bits, the extension words after the well-formed ones. -/
theorem wordsThatSpellNoCommandAreRefused : Obligations.WordsThatSpellNoCommandAreRefused := by
  refine ⟨fun s w ws h => ?_, fun s op w ws hop hz => ?_, fun s k n o x fx hlt => ?_,
    fun s k n o x fx w ws hlt hbad => ?_⟩
  · exact step_of_decode_error (decode_unassigned _ ws ((Op.ofByte_eq_none _).mpr h))
  · exact step_of_decode_error (decode_nonZero _ ws hop (by cases op <;> exact hz))
  · have h := decode_wordR_error s.params.selectors k n o hlt (ws := []) (fun m => rfl)
    rw [List.append_nil] at h
    exact step_of_decode_error h
  · refine step_of_decode_error (decode_wordR_error _ k n o hlt fun m => ?_)
    rw [decodeExts, decodeExt_eq_none hbad]

/-! ## The status port (30_encoding.md R62) -/

/-- Settles O48: the results a command appends, constructor by constructor (`resultsOf`). -/
theorem onlyThreeCommandsReturnResults : Obligations.OnlyThreeCommandsReturnResults := by
  intro i s t h
  cases eq_of_exec h
  cases i with
  | inst tag => exact ⟨_, rfl⟩
  | cvd d => exact ⟨_, rfl⟩
  | effstr => exact ⟨_, rfl⟩
  | _ => exact List.append_nil s.results

/-! ## The pseudo-commands (30_encoding.md R82) -/

/-- The words of a pseudo-command are the one word of its effect. -/
theorem encode_expand (sel : Selectors) (q : Pseudo) :
    encode sel (q.expand sel) = [wordF (q.fx sel).e (q.fx sel).p] :=
  (encode_decodeFx sel _ _).2

/-- A format-F word is the selector's match with the parameter in its low byte. -/
theorem wordF_of_selectorPat {e : Byte} {pat : Word} (h : selectorPat e = pat) (p : Byte) :
    wordF e p = pat ||| p.setWidth 32 :=
  congrArg (· ||| p.setWidth 32) h

/-- The parameter of `ENVMODE` is the sum, and that of a mode switch the union, of 0xE0 and the code. -/
theorem add_mode_eq_modeParam (m : BitVec 2) : 0xE0 + m.setWidth 8 = modeParam m := by
  revert m; decide

theorem setWidth_lenParam (n : BitVec 5) : (lenParam n).setWidth 32 = n.setWidth 32 := by
  revert n; decide

theorem wordF_modeParam (m : BitVec 2) : wordF 0x45 (modeParam m) = 0x060045E0#32 ||| m.setWidth 32 := by
  revert m; decide

/-- Settles O11: each expands by the dispatch of its selector and parameter, and its word is the word of these. -/
theorem pseudoCommandsExpandToEffects : Obligations.PseudoCommandsExpandToEffects := by
  have hmode (sel : Selectors) (m : BitVec 2) : (Pseudo.envmode m).fx sel = ⟨sel.efVolume, modeParam m⟩ :=
    congrArg (Fx.mk sel.efVolume) (add_mode_eq_modeParam m)
  have hvolume (p : Byte) : wordF 0x45 p = 0x06004500#32 ||| p.setWidth 32 := wordF_of_selectorPat (by decide) p
  have hduty (p : Byte) : wordF 0x56 p = 0x06005600#32 ||| p.setWidth 32 := wordF_of_selectorPat (by decide) p
  refine ⟨fun sel => ⟨fun p => encode_expand sel (.vol p), fun p => encode_expand sel (.duty p),
    fun n => decodeFx_len sel n, fun m => ?_⟩, fun p => ?_, fun p => ?_, fun n => ?_, fun m => ?_⟩
  · rw [Pseudo.expand, hmode]
    exact decodeFx_mode sel m
  · exact (encode_expand _ (.vol p)).trans (congrArg ([·]) (hvolume p))
  · exact (encode_expand _ (.duty p)).trans (congrArg ([·]) (hduty p))
  · rw [← setWidth_lenParam]
    exact (encode_expand _ (.len n)).trans (congrArg ([·]) (hvolume (lenParam n)))
  · refine (encode_expand _ (.envmode m)).trans (congrArg ([·]) ?_)
    rw [hmode]
    exact wordF_modeParam m

end Sys2Proof.Machine
end


section
/-! PROOFS. The note commands: the state each leaves, that the note and the columns of a row commute, and that no command
but `TICK` and `CLR` writes the sink (40_note_commands.md). -/

namespace Sys2Proof.Machine

/-! ## Commands that send and return nothing -/

/-- A command that writes and returns nothing replaces the voice alone. -/
theorem exec_eq_setVoice {i : Instr} {s : State} (hwrites : writesOf i s.params s.voice = [])
    (hresults : resultsOf s.params i s.voice = []) :
    exec i s = .next (s.setVoice (voiceAfter s.params i s.voice)) := by
  rw [exec_eq, stateAfter, hwrites, hresults, List.append_nil, List.append_nil]
  rfl

theorem exec_row (k : RowKind) (n : BitVec 4) (o : BitVec 3) (fx : List Fx) (s : State) :
    exec (.row k n o fx) s = .next (s.setVoice (doRow s.params.selectors k n o fx s.voice)) :=
  exec_eq_setVoice rfl rfl

/-! ## The parts of a row (40_note_commands.md R90, R93) -/

/-- A release that is already running is released again to the same state (40_note_commands.md R93). -/
theorem doRel_eq (v : Voice) : doRel v = { v with releasing := true } := by
  unfold doRel
  split_ifs with h
  · rw [← h]
  · rfl

theorem dispatchNote_release (n : BitVec 4) (o : BitVec 3) (v : Voice) :
    dispatchNote .release n o v = { v with releasing := true } :=
  doRel_eq v

theorem noteHook_of_ne {k : RowKind} (h : k ≠ .pitched) (v : Voice) : noteHook k v = v :=
  if_neg fun hk => h hk.1

/-- The hook of a pitched row sets the pending reset outside loop mode, and else leaves it. -/
theorem noteHook_pitched (v : Voice) :
    noteHook .pitched v = { v with
      resetEnvelope := if v.envelopeLoop = false ∨ v.hardwareEnvelope = true then true else v.resetEnvelope } := by
  have hreset : v.noteRequestsReset = true ↔ v.envelopeLoop = false ∨ v.hardwareEnvelope = true := by
    simp [Voice.noteRequestsReset]
  unfold noteHook
  by_cases h : v.envelopeLoop = false ∨ v.hardwareEnvelope = true
  · rw [if_pos ⟨rfl, hreset.mpr h⟩, if_pos h]
  · rw [if_neg fun hk => h (hreset.mp hk.2), if_neg h]

/-- Settles O14: the parts of a row put together, kind by kind. -/
theorem rowResultByKind : Obligations.RowResultByKind := by
  intro n o fx s
  simp only [exec_row, doRow]
  refine ⟨?_, ?_, ?_, ?_⟩
  · rw [noteHook_of_ne (by decide)]; rfl
  · rw [noteHook_pitched]; rfl
  · rw [noteHook_of_ne (by decide)]; rfl
  · rw [noteHook_of_ne (by decide), dispatchNote_release]; rfl

/-! ## The note and the columns commute (40_note_commands.md R95) -/

/-- A note and an effect write different registers, but for the duty: a duty effect writes the default that a pitched note
takes. -/
theorem dispatchNote_doFx (sel : Selectors) (k : RowKind) (n : BitVec 4) (o : BitVec 3) (c : Fx) (v : Voice) :
    dispatchNote k n o (doFx sel c v) = doFx sel c (dispatchNote k n o v) := by
  cases k with
  | release =>
    rw [dispatchNote_release, dispatchNote_release]
    unfold doFx
    split_ifs <;> rfl
  | empty | pitched | noteOff =>
    unfold doFx
    split_ifs <;> rfl

theorem dispatchNote_doColumns (sel : Selectors) (k : RowKind) (n : BitVec 4) (o : BitVec 3) (fx : List Fx) (v : Voice) :
    dispatchNote k n o (doColumns sel fx v) = doColumns sel fx (dispatchNote k n o v) := by
  induction fx generalizing v with
  | nil => rfl
  | cons c fx ih => rw [doColumns_cons, doColumns_cons, ih, dispatchNote_doFx]

/-- Settles O18: the note passes every column, the hook still stands last. -/
theorem noteBeforeColumnsGivesTheSameRow : Obligations.NoteBeforeColumnsGivesTheSameRow := by
  intro k n o fx s
  rw [exec_row, doRow, dispatchNote_doColumns]
  rfl

/-! ## Which commands write the sink (40_note_commands.md R96) -/

theorem writesOf_eq_nil {i : Instr} (htick : ∀ P V, i ≠ .tick P V) (hclr : i ≠ .clr) (params : Params) (v : Voice) :
    writesOf i params v = [] := by
  cases i with
  | tick P V => exact absurd rfl (htick P V)
  | clr => exact absurd rfl hclr
  | _ => rfl

/-- Settles O44: every other command appends the empty burst, and the image is read from the trace. -/
theorem onlyTickAndClrWriteTheSink : Obligations.OnlyTickAndClrWriteTheSink := by
  intro i s t h htick hclr
  have htrace : t.trace = s.trace := by
    rw [eq_of_exec h, stateAfter_trace, writesOf_eq_nil htick hclr, List.append_nil]
  exact ⟨htrace, fun a => by rw [sinkByte_eq, sinkByte_eq, htrace]⟩

/-! ## The note commands one by one (40_note_commands.md R91 to R94) -/

/-- Settles O15: the word is of the row of `EMPTY`, and the voice after it is the voice before. -/
theorem emptyChangesNothing : Obligations.EmptyChangesNothing :=
  ⟨fun sel ws => decode_of_head sel (op := .empty) ws (by decide) (by decide), fun _ => exec_eq_setVoice rfl rfl⟩

/-- Settles O16: each replaces the voice by its one flag's update. -/
theorem cutAndReleaseResults : Obligations.CutAndReleaseResults := by
  intro s
  refine ⟨exec_eq_setVoice rfl rfl, ?_⟩
  rw [← doRel_eq]
  exact exec_eq_setVoice rfl rfl

/-- Settles O17: the mask and match are those of the row of `NOTE` in the opcode table, the result is `doNote`. -/
theorem noteResult : Obligations.NoteResult :=
  ⟨fun sel _ ws hw => decode_of_head sel (op := .note) ws (beq_iff_eq.mpr hw) (by decide),
    fun _ _ _ => exec_eq_setVoice rfl rfl⟩

end Sys2Proof.Machine
end


section
/-! PROOFS. The effect commands: the word of each by mask and match, the state each leaves, and the dispatch of `FX` over
its five arms, as a command and as a column of a row (41_effect_commands.md). -/

namespace Sys2Proof.Machine

/-! ## The words of one selector by mask and match (30_encoding.md R70) -/

theorem wordF_and_paramMask_eq_iff {e e' p q m : Byte} :
    wordF e' p &&& (0xFFFFFF00#32 ||| m.setWidth 32) = wordF e q ↔ e' = e ∧ p &&& m = q := by
  rw [wordF_and_paramMask, wordF_inj]

/-- The words of a row of one selector are the format-F words of the row's parameters. -/
theorem exists_wordF_of_paramMask {w : Word} {e q m : Byte} (h : w &&& (0xFFFFFF00#32 ||| m.setWidth 32) = wordF e q) :
    ∃ p, w = wordF e p ∧ p &&& m = q := by
  have hcovers : (paramRow "" e q m).covers w = true := beq_iff_eq.mpr h
  have hw := eq_wordF_of_covers (headRow_covers_of_paramRow hcovers)
  rw [hw, wordF_and_paramMask_eq_iff] at h
  obtain ⟨he, hq⟩ := h
  exact ⟨_, he ▸ hw, hq⟩

/-- The low bits of a format-F word are those of its parameter. -/
theorem wordF_param_low (e p : Byte) {n : Nat} (hn : n ≤ 8) : (wordF e p).extractLsb' 0 n = p.extractLsb' 0 n := by
  conv_rhs => rw [← wordF_param e p]
  rw [BitVec.extractLsb'_extractLsb'_of_le (by omega)]

theorem decode_wordF_of {sel : Selectors} {e p : Byte} {i : Instr} (h : decodeFx sel e p = i) (ws : List Word) :
    decode sel (wordF e p :: ws) = .ok (i, ws) := by
  rw [decode_wordF, h]

/-! ## The dispatch of one selector and parameter (41_effect_commands.md R110) -/

theorem ignoredVolumeParam_iff (p : Byte) :
    ignoredVolumeParam p = true ↔ ¬ p < 0x20#8 ∧ ¬ (0xE0#8 ≤ p ∧ p < 0xE4#8) := by
  revert p; decide

theorem decodeFx_of_lt (sel : Selectors) {p : Byte} (h : p < 0x20#8) :
    decodeFx sel sel.efVolume p = .volfxLen (p.extractLsb' 0 5) := by
  conv_lhs => rw [← lenParam_of_lt h]
  exact decodeFx_len sel _

theorem decodeFx_of_range (sel : Selectors) {p : Byte} (h : 0xE0#8 ≤ p ∧ p < 0xE4#8) :
    decodeFx sel sel.efVolume p = .volfxMode (p.extractLsb' 0 2) := by
  conv_lhs => rw [← modeParam_of_range h]
  exact decodeFx_mode sel _

/-- The decoder's dispatch asks its questions in the order of `doFx`. -/
theorem decodeFx_eq_chain (sel : Selectors) (e p : Byte) :
    decodeFx sel e p =
      if e = sel.efVolume ∧ p < 0x20#8 then .volfxLen (p.extractLsb' 0 5)
      else if e = sel.efVolume ∧ 0xE0#8 ≤ p ∧ p < 0xE4#8 then .volfxMode (p.extractLsb' 0 2)
      else if e = sel.efVolume then .volfxIgn p
      else if e = sel.efDuty then .dutyfx p
      else .fxother e p := by
  unfold decodeFx
  by_cases he : e = sel.efVolume
  · simp only [he, true_and, if_true]
  · simp only [he, false_and, if_false]

/-- The command of a selector and parameter has the effect of that selector and parameter. -/
theorem exec_decodeFx (e p : Byte) (s : State) :
    exec (decodeFx s.params.selectors e p) s = .next (s.setVoice (doFx s.params.selectors ⟨e, p⟩ s.voice)) := by
  rw [decodeFx_eq_chain]
  unfold doFx
  split_ifs <;> exact exec_eq_setVoice rfl rfl

/-- A row without a note is its columns (40_note_commands.md R90). -/
theorem doRow_empty (sel : Selectors) (n : BitVec 4) (o : BitVec 3) (fx : List Fx) (v : Voice) :
    doRow sel .empty n o fx v = doColumns sel fx v :=
  noteHook_of_ne (by decide) _

/-- The five arms exclude each other and leave nothing out, once the selectors differ. -/
theorem exactly_one_arm {sel : Selectors} (hne : sel.efVolume ≠ sel.efDuty) (e p : Byte) :
    [decide (e = sel.efVolume ∧ p < 0x20#8), decide (e = sel.efVolume ∧ 0xE0#8 ≤ p ∧ p < 0xE4#8),
      decide (e = sel.efVolume ∧ ¬ p < 0x20#8 ∧ ¬ (0xE0#8 ≤ p ∧ p < 0xE4#8)), decide (e = sel.efDuty),
      decide (e ≠ sel.efVolume ∧ e ≠ sel.efDuty)].count true = 1 := by
  by_cases he : e = sel.efVolume
  · have hd : e ≠ sel.efDuty := he ▸ hne
    by_cases hl : p < 0x20#8
    · have hm : ¬ 0xE0#8 ≤ p := by bv_omega
      simp [he, hl, hm, hne]
    · by_cases hm : 0xE0#8 ≤ p ∧ p < 0xE4#8 <;> simp [he, hl, hm, hne]
  · by_cases hd : e = sel.efDuty
    · simp [hd, hne.symm]
    · simp [he, hd]

/-- Settles O24: the chain is the decoder's dispatch, which decodes the word of the selector and parameter and has the
effect that the column has. -/
theorem effectDispatchAndColumnAgree : Obligations.EffectDispatchAndColumnAgree := by
  refine ⟨fun e p s => ?_, fun e p sel hne => exactly_one_arm hne e p, rfl, rfl⟩
  intro sel i
  have hi : i = decodeFx sel e p := (decodeFx_eq_chain sel e p).symm
  rw [hi]
  refine ⟨decode_wordF sel e p, fun n o => ⟨exec_decodeFx e p s, ?_⟩⟩
  rw [exec_decodeFx, exec_row, doRow_empty]
  rfl

/-! ## The effects one by one (41_effect_commands.md R111 to R115) -/

/-- Settles O20: the mask leaves the parameters below 0x20 of the volume effect, the result is `doVolfxLen`. -/
theorem volumeLengthResult : Obligations.VolumeLengthResult := by
  refine ⟨fun w ws hw => ?_, fun _ _ => exec_eq_setVoice rfl rfl⟩
  obtain ⟨p, rfl, hp⟩ := exists_wordF_of_paramMask (e := 0x45) (q := 0) (m := 0xE0) hw
  rw [wordF_param_low _ _ (by decide)]
  exact decode_wordF_of (decodeFx_of_lt defaultSelectors ((and_lenMask_eq_zero_iff p).mp hp)) ws

/-- The mode switch requests a reset outside hardware-driven looping, and else leaves the pending reset. -/
theorem doVolfxMode_eq (p : BitVec 2) (v : Voice) :
    doVolfxMode p v = { v with
      resetEnvelope := if v.envelopeLoop = false ∨ v.hardwareEnvelope = false then true else v.resetEnvelope
      hardwareEnvelope := p.getLsbD 0
      envelopeLoop := !p.getLsbD 1 } := by
  have hreset : v.modeRequestsReset = decide (v.envelopeLoop = false ∨ v.hardwareEnvelope = false) := by
    simp [Voice.modeRequestsReset]
  unfold doVolfxMode
  rw [hreset]
  by_cases h : v.envelopeLoop = false ∨ v.hardwareEnvelope = false
  · rw [decide_eq_true h, if_pos h, Bool.or_true]
  · rw [decide_eq_false h, if_neg h, Bool.or_false]

/-- Settles O21: the mask leaves the parameters 0xE0 to 0xE3 of the volume effect, the result is `doVolfxMode`. -/
theorem volumeModeResult : Obligations.VolumeModeResult := by
  refine ⟨fun w ws hw => ?_, fun p s => ?_⟩
  · obtain ⟨p, rfl, hp⟩ := exists_wordF_of_paramMask (e := 0x45) (q := 0xE0) (m := 0xFC) hw
    rw [wordF_param_low _ _ (by decide)]
    exact decode_wordF_of (decodeFx_of_range defaultSelectors ((and_modeMask_eq_iff p).mp hp)) ws
  · rw [← doVolfxMode_eq]
    exact exec_eq_setVoice rfl rfl

/-- Settles O22: a word of the volume effect that fails the two rows of its ranges has an ignored parameter, a word of
format F that fails both selectors' rows has another selector. -/
theorem ignoredEffectsChangeNothing : Obligations.IgnoredEffectsChangeNothing := by
  refine ⟨fun w ws hw hlen hmode => ?_, fun w ws hw hvolume hduty => ?_, fun _ _ => exec_eq_setVoice rfl rfl,
    fun _ _ _ => exec_eq_setVoice rfl rfl⟩
  · obtain ⟨p, rfl, -⟩ := exists_wordF_of_paramMask (e := 0x45) (q := 0) (m := 0) hw
    have hp : ignoredVolumeParam p = true := by
      refine (ignoredVolumeParam_iff p).mpr ⟨fun hl => hlen ?_, fun hm => hmode ?_⟩
      · exact wordF_and_paramMask_eq_iff.mpr ⟨rfl, (and_lenMask_eq_zero_iff p).mpr hl⟩
      · exact wordF_and_paramMask_eq_iff.mpr ⟨rfl, (and_modeMask_eq_iff p).mpr hm⟩
    rw [wordF_param]
    exact decode_wordF_of (decodeFx_ign defaultSelectors hp) ws
  · obtain ⟨e, p, rfl⟩ : ∃ e p, w = wordF e p := ⟨_, _, eq_wordF_of_covers (beq_iff_eq.mpr hw)⟩
    have hv : e ≠ 0x45 := fun he => hvolume (wordF_and_paramMask_eq_iff (q := 0) (m := 0).mpr ⟨he, BitVec.and_zero⟩)
    have hd : e ≠ 0x56 := fun he => hduty (wordF_and_paramMask_eq_iff (q := 0) (m := 0).mpr ⟨he, BitVec.and_zero⟩)
    have hother : otherSelector defaultSelectors e = true :=
      Bool.and_eq_true_iff.mpr ⟨bne_iff_ne.mpr hv, bne_iff_ne.mpr hd⟩
    rw [wordF_selector, wordF_param]
    exact decode_wordF_of (decodeFx_other hother) ws

/-- Settles O23: the mask leaves every parameter of the duty effect, the result is `doDutyfx`. -/
theorem dutyEffectResult : Obligations.DutyEffectResult := by
  refine ⟨fun w ws hw => ?_, fun _ _ => exec_eq_setVoice rfl rfl⟩
  obtain ⟨p, rfl, -⟩ := exists_wordF_of_paramMask (e := 0x56) (q := 0) (m := 0) hw
  rw [wordF_param]
  exact decode_wordF_of (decodeFx_duty (sel := defaultSelectors) (by decide) p) ws

end Sys2Proof.Machine
end


section
/-! PROOFS. The instrument and duty commands: the state and the result each leaves, and the conversion by type
(42_instrument_and_duty.md). -/

namespace Sys2Proof.Machine

/-- A command that does not write the sink replaces the voice and adds its results. -/
theorem exec_eq_of_writesOf_eq_nil {i : Instr} {s : State} (hwrites : writesOf i s.params s.voice = []) :
    exec i s = .next { s with
      voice := voiceAfter s.params i s.voice, results := s.results ++ resultsOf s.params i s.voice } := by
  rw [exec_eq, stateAfter, hwrites, List.append_nil]

/-! ## Which operands name an instrument type (42_instrument_and_duty.md R125, R126) -/

/-- An operand that names a type installs that type's handler (42_instrument_and_duty.md R126). -/
theorem exec_inst_of_supported {t : BitVec 3} {ty : InstType} {s : State} (h : supportedType s.params.tags t = some ty) :
    exec (.inst t) s = .next { s with
      voice := { s.voice with ih := some (handlerOf ty), instType := ty }, results := s.results ++ [.ok true] } := by
  rw [exec_eq_of_writesOf_eq_nil rfl, voiceAfter, resultsOf, h]
  rfl

/-- An operand that names no type reports failure alone (92_eei_decisions.md D14). -/
theorem exec_inst_of_unsupported {t : BitVec 3} {s : State} (h : supportedType s.params.tags t = none) :
    exec (.inst t) s = .next { s with results := s.results ++ [.ok false] } := by
  rw [exec_eq_of_writesOf_eq_nil rfl, voiceAfter, resultsOf, h]
  rfl

/-- Under distinct numbers, the number of each supported type installs it (92_eei_decisions.md D13). -/
theorem exec_inst_tag {s : State} (hd : distinctTags s.params.tags) {ty : InstType} (hty : ty ≠ .none) :
    exec (.inst (ty.tag s.params.tags)) s = .next { s with
      voice := { s.voice with ih := some (handlerOf ty), instType := ty }, results := s.results ++ [.ok true] } :=
  exec_inst_of_supported ((supportedType_tag hd ty).trans (if_neg hty))

/-- The operands that name no type under the default numbers (92_eei_decisions.md D13). -/
theorem supportedType_defaultTags_eq_none {t : BitVec 3} (h : t = 0 ∨ t = 3 ∨ t = 4 ∨ t = 7) :
    supportedType defaultTags t = none := by
  rcases h with rfl | rfl | rfl | rfl <;> rfl

/-- Settles O26: distinct numbers name each type by its own, and the remaining operands name none. -/
theorem instResult : Obligations.InstResult := by
  refine ⟨fun s hd => ?_, fun t s ht => exec_inst_of_unsupported (supportedType_eq_none.mpr ht), rfl, ?_,
    fun t s htags ht => exec_inst_of_unsupported ?_⟩
  · exact ⟨exec_inst_tag hd (ty := .t2A03) (by decide), exec_inst_tag hd (ty := .vrc6) (by decide),
      exec_inst_tag hd (ty := .n163) (by decide), exec_inst_tag hd (ty := .s5b) (by decide)⟩
  · obtain ⟨-, htags, -⟩ := legalParams_default 0 .asWritten
    exact htags
  · rw [htags]
    exact supportedType_defaultTags_eq_none ht

/-! ## The duty conversion (42_instrument_and_duty.md R128, R131) -/

/-- A duty converted before converts to itself, except through the table of VRC6. -/
theorem convertDuty_convertDuty {t : InstType} (h : t ≠ .vrc6) (d : Byte) :
    convertDuty t (convertDuty t d) = convertDuty t d := by
  cases t with
  | vrc6 => exact absurd rfl h
  | none | t2A03 | n163 | s5b => rfl

/-- Settles O28: the command replaces the voice's duty, the conversion is given arm by arm. -/
theorem seqdutyAndConversionResults : Obligations.SeqdutyAndConversionResults :=
  ⟨fun _ _ => exec_eq_setVoice rfl rfl, fun _ => ⟨rfl, rfl, rfl, rfl, rfl⟩, fun _ d h => convertDuty_convertDuty h d⟩

/-- Settles O29: the mask and match are those of the row of `CVD` in the opcode table, the voice after it is the voice
before. -/
theorem cvdResult : Obligations.CvdResult :=
  ⟨fun sel _ ws hw => decode_of_head sel (op := .cvd) ws (beq_iff_eq.mpr hw) (by decide),
    fun _ _ => exec_eq_of_writesOf_eq_nil rfl⟩

end Sys2Proof.Machine
end

section
/-! PROOFS. The register write sequencer: the three bursts of `TICK` and their bytes, what a tick leaves of the voice and of the
sink image, and when the period-low/length byte is written (43_tick_sequencer.md). -/

namespace Sys2Proof.Machine

/-! ## The control byte (43_tick_sequencer.md R146; 10_state.md R29) -/

/-- The control byte has the duty in its two high bits. -/
theorem ctrlByte_duty (d : BitVec 2) (loop hw : Bool) (V : BitVec 4) : (ctrlByte d loop hw V).extractLsb' 6 2 = d := by
  ext i hi
  have hpos : 6 + i < 8 := by omega
  have hloop : 6 + i - 5 = i + 1 := by omega
  have hhw : 6 + i - 4 = i + 2 := by omega
  have hvolume : V.getLsbD (6 + i) = false := BitVec.getLsbD_of_ge V _ (by omega)
  simp [ctrlByte, flagByte, hpos, hloop, hhw, hvolume, hi]

/-- The loop flag stands in bit 5. -/
theorem ctrlByte_loop (d : BitVec 2) (loop hw : Bool) (V : BitVec 4) : (ctrlByte d loop hw V).getLsbD 5 = loop := by
  simp [ctrlByte, flagByte]

/-- The hardware flag stands negated in bit 4. -/
theorem ctrlByte_hardware (d : BitVec 2) (loop hw : Bool) (V : BitVec 4) : (ctrlByte d loop hw V).getLsbD 4 = !hw := by
  simp [ctrlByte, flagByte]

/-- The volume stands in the four low bits. -/
theorem ctrlByte_volume (d : BitVec 2) (loop hw : Bool) (V : BitVec 4) : (ctrlByte d loop hw V).extractLsb' 0 4 = V := by
  ext i hi
  have hpos : i < 8 := by omega
  have hduty : i < 6 := by omega
  have hloop : i < 5 := by omega
  simp [ctrlByte, flagByte, hpos, hduty, hloop, hi]

/-- The fields above the volume do not overlap, so they may be added as well as ORed. -/
theorem ctrlByte_eq_sum (d : BitVec 2) (loop hw : Bool) (V : BitVec 4) :
    ctrlByte d loop hw V =
      (0x40#8 * d.setWidth 8 + ((flagByte loop <<< 5) + (flagByte (!hw) <<< 4))) ||| V.setWidth 8 := by
  have hfields : (d.setWidth 8 <<< 6) ||| (flagByte loop <<< 5) ||| (flagByte (!hw) <<< 4) =
      0x40#8 * d.setWidth 8 + ((flagByte loop <<< 5) + (flagByte (!hw) <<< 4)) := by
    revert d loop hw
    decide
  rw [ctrlByte, hfields]

theorem flagByte_eq (b : Bool) : flagByte b = if b then 1#8 else 0#8 := by cases b <;> rfl

theorem flagByte_not (b : Bool) : flagByte (!b) = if b then 0#8 else 1#8 := by cases b <;> rfl

/-! ## When step 7 writes `PERLO` (43_tick_sequencer.md R148) -/

theorem perloDue_iff (v : Voice) (split : PeriodSplit) (P : BitVec 11) :
    v.perloDue split P = true ↔ byteB split P ≠ cmpByte split v.lastPeriod ∨ v.resetEnvelope = true := by
  simp [Voice.perloDue]

/-- Both bytes of the sentinel are 0xFF, so the split does not matter. -/
theorem cmpByte_sentinel (split : PeriodSplit) : cmpByte split sentinel = 0xFF := by cases split <;> rfl

/-- The compared byte of a latched period is the byte that goes to `PERLO` for it (20_memory.md R46). -/
theorem cmpByte_setWidth (split : PeriodSplit) (P : BitVec 11) : cmpByte split (P.setWidth 16) = byteB split P := by
  have hP : (P.setWidth 16).toNat = P.toNat := BitVec.toNat_setWidth_of_le (by decide)
  refine BitVec.eq_of_toNat_eq ?_
  cases split with
  | asWritten => rw [cmpByte, byteB, toNat_low_byte, toNat_low_byte, hP]
  | swapped => rw [cmpByte, byteB, toNat_high_byte, toNat_period_high, hP]

/-- Under `SWAPPED` the period byte has three bits, so it never equals a byte of the sentinel. -/
theorem byteB_swapped_ne (P : BitVec 11) : byteB .swapped P ≠ 0xFF := by
  intro h
  have hlt : (byteB .swapped P).toNat < 8 := byteA_asWritten_lt P
  rw [h] at hlt
  exact absurd hlt (by decide)

/-- After the sentinel, `PERLO` is due but for an unlucky low byte under `AS_WRITTEN` (90_conflicts.md C1). -/
theorem perloDue_iff_of_sentinel {v : Voice} (hlast : v.lastPeriod = sentinel) (split : PeriodSplit) (P : BitVec 11) :
    v.perloDue split P = true ↔ split = .swapped ∨ P.extractLsb' 0 8 ≠ 0xFF ∨ v.resetEnvelope = true := by
  rw [perloDue_iff, hlast, cmpByte_sentinel]
  cases split with
  | asWritten => simp [byteB]
  | swapped => exact iff_of_true (.inl (byteB_swapped_ne P)) (.inl rfl)

/-! ## The bursts of a tick (43_tick_sequencer.md R140, R151) -/

/-- The burst of a gated-on tick, with the condition of step 7 written out. -/
theorem tickBurst_on {params : Params} {P : BitVec 11} {V : BitVec 4} {v : Voice} (hg : v.gate = true) :
    tickBurst params P V v =
      [(addrEnable, enableMask),
       (addrCtrl params, ctrlByte (dutyCycle v.dutyPeriod) v.envelopeLoop v.hardwareEnvelope V),
       (addrPerhi params, byteA params.periodSplit P)] ++
      (if byteB params.periodSplit P ≠ cmpByte params.periodSplit v.lastPeriod ∨ v.resetEnvelope = true then
        [(addrPerlo params, perloByte params.periodSplit P v.lengthCounter)] else []) := by
  simp only [tickBurst, if_pos hg, perloDue_iff]

/-- Every tick begins with the enable mask and a byte to `CTRL`, and goes on at the period registers alone (R143). -/
theorem tickBurst_eq_cons (params : Params) (P : BitVec 11) (V : BitVec 4) (v : Voice) :
    ∃ c rest, tickBurst params P V v = (addrEnable, enableMask) :: (addrCtrl params, c) :: rest ∧
      ∀ w ∈ rest, w.1 = addrPerhi params ∨ w.1 = addrPerlo params := by
  cases hg : v.gate with
  | false => exact ⟨_, [], tickBurst_silent hg, by simp⟩
  | true =>
    cases hd : v.perloDue params.periodSplit P with
    | false => exact ⟨_, _, tickBurst_short hg hd, by simp⟩
    | true => exact ⟨_, _, tickBurst_full hg hd, by simp⟩

/-- Where a tick sends its writes: to `PERHI` with the gate on alone, to `PERLO` only where step 7 does. -/
theorem tickBurst_addrs (params : Params) (P : BitVec 11) (V : BitVec 4) (v : Voice) : ∀ w ∈ tickBurst params P V v,
    w.1 = addrEnable ∨ w.1 = addrCtrl params ∨ (v.gate = true ∧ w.1 = addrPerhi params) ∨
      (v.gate = true ∧ v.perloDue params.periodSplit P = true ∧ w.1 = addrPerlo params) := by
  cases hg : v.gate with
  | false => simp [tickBurst_silent hg]
  | true =>
    cases hd : v.perloDue params.periodSplit P with
    | false => simp [tickBurst_short hg hd]
    | true => simp [tickBurst_full hg hd]

/-- A gated-on tick writes the address of `PERLO` exactly where step 7 does. -/
theorem perlo_mem_tickBurst_iff {params : Params} (hd : distinctAddrs params) {P : BitVec 11} {V : BitVec 4} {v : Voice}
    (hg : v.gate = true) :
    (∃ b, (addrPerlo params, b) ∈ tickBurst params P V v) ↔ v.perloDue params.periodSplit P = true := by
  obtain ⟨-, -, hel, -, hcl, hhl⟩ := (distinctAddrs_iff params).mp hd
  constructor
  · rintro ⟨b, hb⟩
    rcases tickBurst_addrs params P V v _ hb with h | h | ⟨-, h⟩ | ⟨-, h, -⟩
    · exact absurd h.symm hel
    · exact absurd h.symm hcl
    · exact absurd h.symm hhl
    · exact h
  · intro hdue
    exact ⟨perloByte params.periodSplit P v.lengthCounter, by simp [tickBurst_full hg hdue]⟩

/-! ## The write trace and the sink image after a command -/

/-- What a command adds to the trace is its burst (20_memory.md R48). -/
theorem drop_stateAfter_trace (i : Instr) (s : State) :
    (stateAfter i s).trace.drop s.trace.length = writesOf i s.params s.voice :=
  List.drop_left

/-- An address a command does not write reads as before. -/
theorem sinkByte_stateAfter {i : Instr} {s : State} {a : Addr} (h : ∀ w ∈ writesOf i s.params s.voice, w.1 ≠ a) :
    (stateAfter i s).sinkByte a = s.sinkByte a :=
  imageOf_read_of_not_mem s.trace (writesOf i s.params s.voice) a h

/-- The frame of a tick over the sink image. -/
theorem sinkByte_tick {P : BitVec 11} {V : BitVec 4} {s : State} {a : Addr} (he : a ≠ addrEnable)
    (hc : a ≠ addrCtrl s.params) (hh : ¬ (s.voice.gate = true ∧ a = addrPerhi s.params))
    (hl : ¬ (s.voice.gate = true ∧ s.voice.perloDue s.params.periodSplit P = true ∧ a = addrPerlo s.params)) :
    (stateAfter (.tick P V) s).sinkByte a = s.sinkByte a := by
  refine sinkByte_stateAfter fun w hw hwa => ?_
  rcases tickBurst_addrs s.params P V s.voice w hw with h | h | ⟨hg, h⟩ | ⟨hg, hdue, h⟩ <;> rw [hwa] at h
  · exact he h
  · exact hc h
  · exact hh ⟨hg, h⟩
  · exact hl ⟨hg, hdue, h⟩

/-! ## Runs of commands that leave `lastPeriod` (43_tick_sequencer.md R152) -/

/-- What every command of a run keeps holds after the run. -/
theorem execAll_keeps {p : State → Prop} {is : List Instr} {s t : State} (hrun : execAll is s = .next t)
    (hkeeps : ∀ i ∈ is, ∀ u, p u → p (stateAfter i u)) (hs : p s) : p t := by
  induction is generalizing s with
  | nil =>
    cases hrun
    exact hs
  | cons i is ih =>
    rw [execAll_cons] at hrun
    exact ih hrun (fun j hj => hkeeps j (List.mem_cons_of_mem i hj)) (hkeeps i List.mem_cons_self s hs)

@[simp] theorem doColumns_lastPeriod (sel : Selectors) (fx : List Fx) (v : Voice) :
    (doColumns sel fx v).lastPeriod = v.lastPeriod := by
  obtain ⟨-, -, h, -⟩ := doColumns_frame sel fx v
  exact h

@[simp] theorem doRow_lastPeriod (sel : Selectors) (k : RowKind) (n : BitVec 4) (o : BitVec 3) (fx : List Fx) (v : Voice) :
    (doRow sel k n o fx v).lastPeriod = v.lastPeriod := by
  simp [doRow]

/-- Only `TICK` and `RST` write `lastPeriod` (10_state.md R15). -/
theorem voiceAfter_lastPeriod {i : Instr} (htick : ∀ P V, i ≠ .tick P V) (hrst : i ≠ .rst) (params : Params) (v : Voice) :
    (voiceAfter params i v).lastPeriod = v.lastPeriod := by
  cases i with
  | tick P V => exact absurd rfl (htick P V)
  | rst => exact absurd rfl hrst
  | inst t =>
    simp only [voiceAfter]
    split <;> rfl
  | _ => simp [voiceAfter]

/-- A run without `TICK` and `RST` keeps `lastPeriod`, and as every run the parameters. -/
theorem lastPeriod_of_execAll {is : List Instr} {s t : State} (hrun : execAll is s = .next t)
    (his : ∀ i ∈ is, (∀ P V, i ≠ .tick P V) ∧ i ≠ .rst) :
    t.params = s.params ∧ t.voice.lastPeriod = s.voice.lastPeriod := by
  refine execAll_keeps (p := fun u => u.params = s.params ∧ u.voice.lastPeriod = s.voice.lastPeriod) hrun ?_ ⟨rfl, rfl⟩
  rintro i hi u ⟨hparams, hlast⟩
  obtain ⟨htick, hrst⟩ := his i hi
  exact ⟨hparams, (voiceAfter_lastPeriod htick hrst u.params u.voice).trans hlast⟩

/-- Columns none of which sets the mode keep the three registers of the mode. -/
theorem doColumns_keeps_mode {sel : Selectors} {fx : List Fx} (h : ∀ c ∈ fx, columnSetsMode sel c = false) (v : Voice) :
    (doColumns sel fx v).envelopeLoop = v.envelopeLoop ∧ (doColumns sel fx v).hardwareEnvelope = v.hardwareEnvelope ∧
      (doColumns sel fx v).resetEnvelope = v.resetEnvelope := by
  have hnone : ¬ ∃ c ∈ fx, columnSetsMode sel c = true :=
    fun ⟨c, hc, hset⟩ => Bool.false_ne_true ((h c hc).symm.trans hset)
  refine ⟨(doColumns_envelopeLoop sel fx v).resolve_right hnone, ?_,
    (doColumns_resetEnvelope sel fx v).resolve_right hnone⟩
  exact (doColumns_hardwareEnvelope sel fx v).resolve_right
    fun ⟨c, hc, he, hp⟩ => hnone ⟨c, hc, columnSetsMode_of_mode he hp⟩

/-- The hook's condition is that the voice is outside loop mode (45_envelope_state_machine.md R175). -/
theorem noteRequestsReset_iff (v : Voice) : v.noteRequestsReset = true ↔ v.mode ≠ 0 := by
  unfold Voice.noteRequestsReset Voice.mode
  cases v.envelopeLoop <;> cases v.hardwareEnvelope <;> decide

/-- Without a column that sets the mode, a row requests a reset by its hook alone. -/
theorem doRow_resetEnvelope {sel : Selectors} {fx : List Fx} (h : ∀ c ∈ fx, columnSetsMode sel c = false) (k : RowKind)
    (n : BitVec 4) (o : BitVec 3) (v : Voice) :
    (doRow sel k n o fx v).resetEnvelope = (v.resetEnvelope || (decide (k = .pitched) && v.noteRequestsReset)) := by
  obtain ⟨hloop, hhw, hreset⟩ := doColumns_keeps_mode h v
  simp [doRow, Voice.noteRequestsReset, hloop, hhw, hreset]

/-- The commands R152 names keep both registers of its premise. -/
theorem voiceAfter_of_leavesDiffing {i : Instr} {params : Params} (h : leavesDiffing params.selectors i = true) (v : Voice) :
    (voiceAfter params i v).lastPeriod = v.lastPeriod ∧ (voiceAfter params i v).resetEnvelope = v.resetEnvelope := by
  have hnot : (∀ P V, i ≠ .tick P V) ∧ i ≠ .rst := by
    constructor
    · rintro P V rfl
      cases h
    · rintro rfl
      cases h
  obtain ⟨htick, hrst⟩ := hnot
  refine ⟨voiceAfter_lastPeriod htick hrst params v, ?_⟩
  cases i with
  | row k n o fx =>
    simp only [leavesDiffing, Bool.and_eq_true, decide_eq_true_eq, List.all_eq_true, Bool.not_eq_true'] at h
    obtain ⟨hk, hfx⟩ := h
    simp [voiceAfter, doRow_resetEnvelope hfx, hk]
  | inst t =>
    simp only [voiceAfter]
    split <;> rfl
  | rst | volfxLen p | volfxMode p | tick P V => cases h
  | _ => simp [voiceAfter]

/-- A run of the commands R152 names keeps both registers of its premise, the selectors being fixed. -/
theorem execAll_of_leavesDiffing {is : List Instr} {s t : State} (hrun : execAll is s = .next t)
    (his : ∀ i ∈ is, leavesDiffing s.params.selectors i = true) :
    t.voice.lastPeriod = s.voice.lastPeriod ∧ t.voice.resetEnvelope = s.voice.resetEnvelope := by
  have hkeeps : t.params = s.params ∧ t.voice.lastPeriod = s.voice.lastPeriod ∧
      t.voice.resetEnvelope = s.voice.resetEnvelope := by
    refine execAll_keeps (p := fun u => u.params = s.params ∧ u.voice.lastPeriod = s.voice.lastPeriod ∧
      u.voice.resetEnvelope = s.voice.resetEnvelope) hrun ?_ ⟨rfl, rfl, rfl⟩
    rintro i hi u ⟨hparams, hlast, hreset⟩
    obtain ⟨hlast', hreset'⟩ := voiceAfter_of_leavesDiffing (params := u.params) (hparams ▸ his i hi) u.voice
    exact ⟨hparams, hlast'.trans hlast, hreset'.trans hreset⟩
  obtain ⟨-, hlast, hreset⟩ := hkeeps
  exact ⟨hlast, hreset⟩

/-! ## What a tick is, and when it writes what -/

/-- Settles O39: the run keeps the latched `lastPeriod`, whose compared byte is `BYTE_B` of the first tick; the named commands
keep the premise one by one; the row's hook alone requests a reset. -/
theorem unchangedPeriodByteIsNotRewritten : Obligations.UnchangedPeriodByteIsNotRewritten := by
  refine ⟨fun P₁ P₂ V₁ V₂ is s s₁ s₂ hg h₁ his hrun hg₂ hr₂ hbyte => ?_,
    fun is s t his hrun => execAll_of_leavesDiffing hrun his, fun n o fx s t hfx h => ?_⟩
  · cases eq_of_exec h₁
    obtain ⟨hparams, hkept⟩ := lastPeriod_of_execAll hrun his
    rw [stateAfter_params] at hparams
    have hlast : s₂.voice.lastPeriod = P₁.setWidth 16 := hkept.trans (if_pos hg)
    have hdue : s₂.voice.perloDue s₂.params.periodSplit P₂ = false := by
      simp [Voice.perloDue, hr₂, hlast, hparams, cmpByte_setWidth, hbyte]
    rw [← hparams]
    refine ⟨_, _, _, exec_eq _ _, congrArg (s₂.trace ++ ·) (tickBurst_short hg₂ hdue), fun hd => ?_⟩
    obtain ⟨-, -, hel, -, hcl, hhl⟩ := (distinctAddrs_iff _).mp hd
    refine sinkByte_tick hel.symm hcl.symm (fun ⟨_, h⟩ => hhl h.symm) fun ⟨_, h, _⟩ => ?_
    exact Bool.false_ne_true (hdue.symm.trans h)
  · cases eq_of_exec h
    refine ⟨doRow_lastPeriod _ _ n o fx _, ?_⟩
    rw [stateAfter_voice, voiceAfter, doRow_resetEnvelope hfx, ← noteRequestsReset_iff]
    simp [or_comm]

/-- Settles O34: the silent burst, which holds no write to a period register, and the voice of a gated-off tick. -/
theorem gatedOffTickIsSilentAndDropsTheReset : Obligations.GatedOffTickIsSilentAndDropsTheReset := by
  intro P V s hg
  have hon : ¬ s.voice.gate = true := by simp [hg]
  refine ⟨_, exec_eq _ _, congrArg (s.trace ++ ·) (tickBurst_silent hg), fun hd => ?_, tickVoice_off hg⟩
  obtain ⟨-, heh, hel, hch, hcl, -⟩ := (distinctAddrs_iff _).mp hd
  exact ⟨sinkByte_tick heh.symm hch.symm (fun ⟨h, _⟩ => hon h) (fun ⟨h, _⟩ => hon h),
    sinkByte_tick hel.symm hcl.symm (fun ⟨h, _⟩ => hon h) (fun ⟨h, _⟩ => hon h)⟩

/-- Settles O35: the second write of the burst is the control byte, field by field and as the sum of its fields. -/
theorem gatedOnTickWritesTheControlByte : Obligations.GatedOnTickWritesTheControlByte := by
  intro P V s hg
  refine ⟨_, ctrlByte (dutyCycle s.voice.dutyPeriod) s.voice.envelopeLoop s.voice.hardwareEnvelope V, exec_eq _ _, ?_,
    ctrlByte_duty _ _ _ V, ctrlByte_loop _ _ _ V, ctrlByte_hardware _ _ _ V, ctrlByte_volume _ _ _ V, ?_⟩
  · simp [writesOf, tickBurst_on hg]
  · rw [ctrlByte_eq_sum]
    cases s.voice.envelopeLoop <;> cases s.voice.hardwareEnvelope <;> rfl

/-- Settles O36: the burst of a gated-on tick, and the two commands that leave the sentinel. -/
theorem perloIsWrittenExactlyWhenDue : Obligations.PerloIsWrittenExactlyWhenDue := by
  refine ⟨fun P V s hg => ?_, fun x => by simp, fun P V s t hg h => ?_, fun s t h => ?_⟩
  · refine ⟨_, _, _, _, exec_eq _ _,
      (congrArg (s.trace ++ ·) (tickBurst_on hg)).trans (List.append_assoc _ _ _).symm, fun hd => ?_⟩
    obtain ⟨-, -, hel, -, hcl, hhl⟩ := (distinctAddrs_iff _).mp hd
    exact ⟨hel, hcl, hhl⟩
  · cases eq_of_exec h
    rw [stateAfter_voice, voiceAfter, tickVoice_off hg]
    exact cmpByte_sentinel _
  · cases eq_of_exec h
    exact cmpByte_sentinel _

/-- Settles O38: the gated-off tick leaves the sentinel and the row keeps it, so step 7 compares with 0xFF. -/
theorem offToOnTickRewritesThePeriod : Obligations.OffToOnTickRewritesThePeriod := by
  refine ⟨fun P P' V V' n o s hg => ?_, fun P => ?_⟩
  · have hlast : (stateAfter (.row .pitched n o []) (stateAfter (.tick P V) s)).voice.lastPeriod = sentinel := by
      simp [voiceAfter, hg]
    have hgate : (stateAfter (.row .pitched n o []) (stateAfter (.tick P V) s)).voice.gate = true := by
      simp [voiceAfter, doRow]
    refine ⟨_, _, by rw [execAll_cons, execAll_cons, execAll_nil], hgate, hlast, exec_eq _ _, fun hd => ?_⟩
    rw [drop_stateAfter_trace]
    exact (perlo_mem_tickBurst_iff hd hgate).trans (perloDue_iff_of_sentinel hlast _ P')
  · have hP := P.isLt
    simp only [← BitVec.toNat_inj, toNat_low_byte, List.mem_cons, List.not_mem_nil, or_false, BitVec.toNat_ofNat]
    omega

/-- Settles O45: the registers a tick writes are those of `tickVoice`, the addresses those of its burst; `CLR` writes three
addresses and no register. -/
theorem storingCommandsFrame : Obligations.StoringCommandsFrame := by
  refine ⟨fun P V s t h => ?_, fun s t h => ?_⟩
  · cases eq_of_exec h
    exact ⟨rfl, rfl, List.append_nil _, rfl, rfl, rfl, rfl, rfl, rfl, rfl, rfl, rfl, rfl, fun a => sinkByte_tick⟩
  · cases eq_of_exec h
    refine ⟨rfl, rfl, List.append_nil _, rfl, fun a hc hh hl => sinkByte_stateAfter ?_⟩
    simp [writesOf, clrBurst, hc.symm, hh.symm, hl.symm]

/-- Settles O30: the mask and match are those of the row of `TICK` in the opcode table; the voice and the burst by the gate. -/
theorem tickResult : Obligations.TickResult := by
  refine ⟨fun sel w ws hw => decode_of_head sel (op := .tick) ws (beq_iff_eq.mpr hw) (by decide), fun P V s => ?_⟩
  rw [exec_eq, stateAfter, voiceAfter, writesOf, resultsOf, List.append_nil]
  cases hg : s.voice.gate with
  | false =>
    rw [if_pos rfl, tickVoice_off hg, tickBurst_silent hg]
    rfl
  | true =>
    rw [if_neg (by decide), tickVoice_on hg, tickBurst_on hg, ctrlByte, flagByte_eq, flagByte_not, ← List.append_assoc]
    rfl

/-- Settles O33: the two first writes are those of every tick, the others go to the period registers. -/
theorem everyTickWritesTheEnableMaskFirst : Obligations.EveryTickWritesTheEnableMaskFirst := by
  intro P V s
  obtain ⟨c, rest, hburst, hrest⟩ := tickBurst_eq_cons s.params P V s.voice
  refine ⟨_, c, rest, exec_eq _ _, congrArg (s.trace ++ ·) hburst, fun hd w hw he => ?_⟩
  obtain ⟨hec, heh, hel, -⟩ := (distinctAddrs_iff _).mp hd
  rcases List.mem_cons.mp hw with rfl | hw
  · exact hec he.symm
  · rcases hrest w hw with h | h
    · exact heh (he.symm.trans h)
    · exact hel (he.symm.trans h)

end Sys2Proof.Machine
end


section
/-! PROOFS. The system commands: the state `RST` and `CLR` leave, the text of `EFFSTR`, and that its tokens are effects that
recreate the mode (44_system_commands.md). -/

namespace Sys2Proof.Machine

/-! ## Reset and clear (44_system_commands.md R160, R162) -/

/-- Settles O13: the command replaces the voice alone, by `doRst`. -/
theorem rstResult : Obligations.RstResult :=
  fun _ => exec_eq_setVoice rfl rfl

/-- Settles O41: the command appends `clrBurst`, keeps the voice and returns nothing. -/
theorem clrResult : Obligations.ClrResult := by
  intro s
  rw [exec_eq, stateAfter, resultsOf, List.append_nil]
  rfl

/-! ## Hexadecimal digits (30_encoding.md R83) -/

/-- The sixteen upper-case digits in order, as ASCII bytes. -/
def hexDigits : List Byte :=
  [0x30, 0x31, 0x32, 0x33, 0x34, 0x35, 0x36, 0x37, 0x38, 0x39, 0x41, 0x42, 0x43, 0x44, 0x45, 0x46]

theorem hexDigit_eq_getD (n : BitVec 4) : hexDigit n = hexDigits.getD n.toNat 0 := by
  revert n; decide

@[simp] theorem hexValue_hexDigit (n : BitVec 4) : hexValue (hexDigit n) = some n := by
  revert n; decide

theorem hex2_eq_getD (b : Byte) :
    hex2 b = [hexDigits.getD (b.toNat / 16) 0, hexDigits.getD (b.toNat % 16) 0] := by
  have hhigh : (b.extractLsb' 4 4).toNat = b.toNat / 16 := by
    rw [BitVec.extractLsb'_toNat, Nat.shiftRight_eq_div_pow]
    omega
  have hlow : (b.extractLsb' 0 4).toNat = b.toNat % 16 := by
    rw [BitVec.extractLsb'_toNat, Nat.shiftRight_zero]
  rw [hex2, hexDigit_eq_getD, hexDigit_eq_getD, hhigh, hlow]

/-- The two digits of the length token. -/
theorem hex2_setWidth (L : BitVec 5) :
    hex2 (L.setWidth 8) = [hexDigits.getD (L.toNat / 16) 0, hexDigits.getD (L.toNat % 16) 0] := by
  rw [hex2_eq_getD, BitVec.toNat_setWidth_of_le (by decide)]

/-! ## The text by mode (44_system_commands.md R164) -/

/-- Settles O42: the command delivers `effectString` alone, whose text is read off mode by mode. -/
theorem effstrResult : Obligations.EffstrResult := by
  intro s digit length
  have hlength : textE ++ hex2 (s.voice.lengthCounter.setWidth 8) = length := congrArg (textE ++ ·) (hex2_setWidth _)
  rw [exec_eq_of_writesOf_eq_nil rfl, resultsOf, effectString, hlength, Voice.nonDefaultMode, Voice.mode]
  cases s.voice.envelopeLoop <;> cases s.voice.hardwareEnvelope <;> rfl

/-! ## The tokens of the text are effects (44_system_commands.md R165) -/

/-- The token of a parameter is read as the volume effect with that parameter. -/
theorem spelledEffects_token (sel : Selectors) (p : Byte) (rest : List Byte) :
    spelledEffects sel (textE ++ hex2 p ++ rest) =
      (spelledEffects sel rest).map (decodeFx sel sel.efVolume p :: ·) := by
  have hp : p.extractLsb' 4 4 ++ p.extractLsb' 0 4 = p := by revert p; decide
  simp only [textE, hex2, List.cons_append, List.nil_append, spelledEffects, hexValue_hexDigit]
  rw [if_pos ⟨rfl, rfl⟩]
  cases spelledEffects sel rest with
  | none => rfl
  | some is => simp only [hp, Option.map_some]

/-- The token " EEm" is that of the parameter of mode `m`. -/
theorem modeToken_eq (m : BitVec 2) : textEE ++ hex1 (m.setWidth 4) = textE ++ hex2 (modeParam m) := by
  revert m; decide

theorem nonDefaultMode_iff (v : Voice) : v.nonDefaultMode = true ↔ v.mode ≠ 0 := noteRequestsReset_iff v

/-- The effects that recreate the mode of a voice: its length load when not looping, then its mode switch outside the
default mode. -/
def modeEffects (v : Voice) : List Instr :=
  (if v.envelopeLoop = false then [Instr.volfxLen v.lengthCounter] else []) ++
    (if v.mode ≠ 0 then [Instr.volfxMode v.mode] else [])

theorem spelledEffects_lengthToken (sel : Selectors) (L : BitVec 5) (rest : List Byte) :
    spelledEffects sel (textE ++ hex2 (L.setWidth 8) ++ rest) = (spelledEffects sel rest).map (.volfxLen L :: ·) := by
  rw [← decodeFx_len sel L]
  exact spelledEffects_token sel (lenParam L) rest

theorem spelledEffects_modeToken (sel : Selectors) (m : BitVec 2) :
    spelledEffects sel (textEE ++ hex1 (m.setWidth 4)) = some [.volfxMode m] := by
  rw [modeToken_eq, ← List.append_nil (textE ++ _), spelledEffects_token, decodeFx_mode]
  rfl

/-- The text of a voice spells the effects that recreate its mode. -/
theorem spelledEffects_effectString (sel : Selectors) (v : Voice) :
    spelledEffects sel (effectString v) = some (modeEffects v) := by
  have hmode : spelledEffects sel (if v.nonDefaultMode then textEE ++ hex1 (v.mode.setWidth 4) else []) =
      some (if v.mode ≠ 0 then [.volfxMode v.mode] else []) := by
    simp only [nonDefaultMode_iff]
    split_ifs
    · exact spelledEffects_modeToken sel v.mode
    · rfl
  unfold effectString modeEffects
  cases v.envelopeLoop with
  | true => exact hmode
  | false =>
    rw [if_neg Bool.false_ne_true, if_pos rfl, spelledEffects_lengthToken, hmode]
    rfl

/-! ## The effects recreate the mode (41_effect_commands.md R111, R112) -/

/-- The mode code holds the two flags. -/
theorem envelopeLoop_eq_of_mode (v : Voice) : v.envelopeLoop = !v.mode.getLsbD 1 := by
  unfold Voice.mode
  cases v.envelopeLoop <;> cases v.hardwareEnvelope <;> rfl

theorem hardwareEnvelope_eq_of_mode (v : Voice) : v.hardwareEnvelope = v.mode.getLsbD 0 := by
  unfold Voice.mode
  cases v.envelopeLoop <;> cases v.hardwareEnvelope <;> rfl

theorem mode_eq_iff (v w : Voice) :
    v.mode = w.mode ↔ v.envelopeLoop = w.envelopeLoop ∧ v.hardwareEnvelope = w.hardwareEnvelope := by
  refine ⟨fun h => ?_, fun ⟨hloop, hhw⟩ => congrArg₂ modeCode hloop hhw⟩
  rw [envelopeLoop_eq_of_mode v, hardwareEnvelope_eq_of_mode v, h]
  exact ⟨(envelopeLoop_eq_of_mode w).symm, (hardwareEnvelope_eq_of_mode w).symm⟩

/-- A mode switch leaves the mode it names. -/
theorem doVolfxMode_mode (m : BitVec 2) (v : Voice) : (doVolfxMode m v).mode = m := by
  unfold Voice.mode
  rw [doVolfxMode_envelopeLoop, doVolfxMode_hardwareEnvelope]
  revert m; decide

/-- The default mode is a looping one. -/
theorem mode_ne_zero_of_not_loop {v : Voice} (h : v.envelopeLoop = false) : v.mode ≠ 0 := by
  rw [← nonDefaultMode_iff, Voice.nonDefaultMode, h]
  rfl

/-- The effects of `v` leave its mode, once they include a switch or the mode was the default one, and its length when
it is not looping. -/
theorem execAll_modeEffects (v : Voice) (u : State) : ∃ u', execAll (modeEffects v) u = .next u' ∧
    (v.mode ≠ 0 ∨ u.voice.mode = 0 → u'.voice.mode = v.mode) ∧
    (v.envelopeLoop = false → u'.voice.lengthCounter = v.lengthCounter) := by
  cases hloop : v.envelopeLoop with
  | false =>
    rw [modeEffects, if_pos hloop, if_pos (mode_ne_zero_of_not_loop hloop)]
    exact ⟨_, rfl, fun _ => doVolfxMode_mode _ _, fun _ => rfl⟩
  | true =>
    have hlen : modeEffects v = if v.mode ≠ 0 then [.volfxMode v.mode] else [] := by simp [modeEffects, hloop]
    rw [hlen]
    split_ifs with hmode
    · exact ⟨_, rfl, fun _ => doVolfxMode_mode _ _, nofun⟩
    · exact ⟨_, rfl, fun h => (h.resolve_left hmode).trans (not_not.mp hmode).symm, nofun⟩

/-- Settles O43: the delivered text spells `modeEffects`, and these leave the mode code, hence the flags. -/
theorem effstrTokensRecreateTheMode : Obligations.EffstrTokensRecreateTheMode := by
  intro s
  refine ⟨_, effectString s.voice, modeEffects s.voice, exec_eq _ _, rfl, spelledEffects_effectString _ _, rfl,
    fun u => ?_⟩
  obtain ⟨u', hrun, hmode, hlength⟩ := execAll_modeEffects s.voice u
  exact ⟨u', hrun, fun h => (mode_eq_iff _ _).mp (hmode h), hlength⟩

end Sys2Proof.Machine
end

section
/-! PROOFS. The envelope modes: the mode code and the pending reset after each part of a row and each effect, what changes
them, and the complete transition table (45_envelope_state_machine.md). -/

namespace Sys2Proof.Machine

/-! ## The mode after an effect and after a row (45_envelope_state_machine.md R176 to R179) -/

/-- A length load clears the loop flag and leaves the hardware flag. -/
theorem doVolfxLen_mode (p : BitVec 5) (v : Voice) :
    (doVolfxLen p v).mode = if v.mode = 0 ∨ v.mode = 2 then 2 else 3 := by
  unfold Voice.mode
  rw [doVolfxLen_envelopeLoop, doVolfxLen_hardwareEnvelope]
  cases v.envelopeLoop <;> cases v.hardwareEnvelope <;> decide

/-- The mode switch's condition is that the voice is outside hardware-driven looping. -/
theorem modeRequestsReset_iff (v : Voice) : v.modeRequestsReset = true ↔ v.mode ≠ 1 := by
  unfold Voice.modeRequestsReset Voice.mode
  cases v.envelopeLoop <;> cases v.hardwareEnvelope <;> decide

/-- `RST` leaves the default mode. -/
theorem doRst_mode (v : Voice) : (doRst v).mode = 0 := by
  rw [Voice.mode, doRst_envelopeLoop, doRst_hardwareEnvelope]
  decide

/-- The note and the hook of a row leave the mode to its columns. -/
theorem doRow_mode (sel : Selectors) (k : RowKind) (n : BitVec 4) (o : BitVec 3) (fx : List Fx) (v : Voice) :
    (doRow sel k n o fx v).mode = (doColumns sel fx v).mode := by
  rw [mode_eq_iff]
  simp [doRow]

/-- Columns none of which is a volume effect keep the mode. -/
theorem doColumns_mode_of_no_volume {sel : Selectors} {fx : List Fx} (h : ∀ c ∈ fx, c.e ≠ sel.efVolume) (v : Voice) :
    (doColumns sel fx v).mode = v.mode := by
  have hkept : (doColumns sel fx v).mode = v.mode ∨ ∃ c ∈ fx, c.e = sel.efVolume :=
    doColumns_keeps_or (·.mode) (fun _ _ he _ => .inr he) (fun _ _ he _ => .inr he) (fun _ _ _ => .inl rfl) fx v
  exact hkept.resolve_right fun ⟨c, hc, he⟩ => h c hc he

/-- Columns none of which sets the mode keep it. -/
theorem doColumns_mode_of_no_setter {sel : Selectors} {fx : List Fx} (h : ∀ c ∈ fx, columnSetsMode sel c = false)
    (v : Voice) : (doColumns sel fx v).mode = v.mode := by
  obtain ⟨hloop, hhw, -⟩ := doColumns_keeps_mode h v
  exact (mode_eq_iff _ _).mpr ⟨hloop, hhw⟩

/-! ## The pending reset (45_envelope_state_machine.md R182) -/

/-- A row requests a reset by its columns, or by its hook when it is pitched and ends outside loop mode. -/
theorem doRow_resetEnvelope_iff (sel : Selectors) (k : RowKind) (n : BitVec 4) (o : BitVec 3) (fx : List Fx) (v : Voice) :
    (doRow sel k n o fx v).resetEnvelope = true ↔
      (doColumns sel fx v).resetEnvelope = true ∨ k = .pitched ∧ (doRow sel k n o fx v).mode ≠ 0 := by
  rw [doRow_mode, ← noteRequestsReset_iff]
  simp [doRow, Voice.noteRequestsReset]

/-- No effect takes a pending reset back. -/
theorem doFx_keeps_pending (sel : Selectors) (c : Fx) {v : Voice} (h : v.resetEnvelope = true) :
    (doFx sel c v).resetEnvelope = true := by
  rcases doFx_cases sel c v with ⟨-, -, e⟩ | ⟨-, -, -, e⟩ | ⟨-, e⟩ | e <;> rw [e]
  · rfl
  · rw [doVolfxMode_resetEnvelope, h, Bool.true_or]
  · exact h
  · exact h

theorem doColumns_keeps_pending (sel : Selectors) (fx : List Fx) {v : Voice} (h : v.resetEnvelope = true) :
    (doColumns sel fx v).resetEnvelope = true := by
  induction fx generalizing v with
  | nil => exact h
  | cons c fx ih => exact ih (doFx_keeps_pending sel c h)

/-- No command but `TICK` takes a pending reset back. -/
theorem voiceAfter_keeps_pending {i : Instr} (htick : ∀ P V, i ≠ .tick P V) (params : Params) {v : Voice}
    (h : v.resetEnvelope = true) : (voiceAfter params i v).resetEnvelope = true := by
  cases i with
  | tick P V => exact absurd rfl (htick P V)
  | row k n o fx => exact (doRow_resetEnvelope_iff _ k n o fx v).mpr (.inl (doColumns_keeps_pending _ fx h))
  | inst t =>
    simp only [voiceAfter]
    split <;> exact h
  | _ => simp [voiceAfter, h]

/-- Settles O51: a request comes from the row's columns or its hook, or from the effect's own condition; only `TICK` takes
one back. -/
theorem lifeOfAPendingReset : Obligations.LifeOfAPendingReset := by
  intro i s t hexec
  cases eq_of_exec hexec
  rw [stateAfter_voice]
  refine ⟨fun hold hnew => ?_, fun hold hnew => ?_, ?_⟩
  · cases i with
    | volfxLen p => trivial
    | volfxMode p =>
      rw [voiceAfter, doVolfxMode_resetEnvelope, hold, Bool.false_or] at hnew
      exact (modeRequestsReset_iff _).mp hnew
    | row k n o fx =>
      rcases (doRow_resetEnvelope_iff _ k n o fx _).mp hnew with hcolumns | hhook
      · rcases doColumns_resetEnvelope s.params.selectors fx s.voice with hkept | hset
        · exact absurd (hold.symm.trans (hkept.symm.trans hcolumns)) Bool.false_ne_true
        · exact .inr hset
      · exact .inl hhook
    | inst t =>
      simp only [voiceAfter] at hnew
      split at hnew <;> exact absurd (hold.symm.trans hnew) Bool.false_ne_true
    | _ => simp [voiceAfter, hold] at hnew
  · by_contra hnone
    have htick : ∀ P V, i ≠ .tick P V := fun P V hi => hnone ⟨P, V, hi⟩
    exact Bool.false_ne_true (hnew.symm.trans (voiceAfter_keeps_pending htick s.params hold))
  · rintro P V rfl
    rfl

/-! ## What changes the mode -/

/-- Settles O50: `RST` writes the values of power-on; a row's mode is that of its columns; every other command but the mode
effects writes neither flag. -/
theorem modeStartsInLoopAndOnlyEffectsChangeIt : Obligations.ModeStartsInLoopAndOnlyEffectsChangeIt := by
  refine ⟨⟨rfl, rfl⟩, fun s t hexec => ?_, fun i s t hexec => ?_⟩
  · cases eq_of_exec hexec
    exact ⟨rfl, rfl⟩
  · cases eq_of_exec hexec
    rw [stateAfter_voice]
    cases i with
    | rst | volfxLen p | volfxMode p => trivial
    | row k n o fx =>
      have hmode := doRow_mode s.params.selectors k n o fx s.voice
      exact ⟨hmode, fun hfx => hmode.trans (doColumns_mode_of_no_volume hfx s.voice)⟩
    | inst t =>
      simp only [voiceAfter]
      split <;> rfl
    | rel => exact (mode_eq_iff _ _).mpr ⟨doRel_envelopeLoop _, doRel_hardwareEnvelope _⟩
    | _ => rfl

/-- Settles O49: the columns of the table are the hook and the effects one by one; for every other event, that the mode is
kept is O50 and that nothing is requested is O51. -/
theorem modeTransitionTable : Obligations.ModeTransitionTable := by
  intro s
  refine ⟨fun n o => ⟨_, exec_eq _ _, doRow_mode _ _ n o [] _, ?_⟩, fun p => ⟨_, exec_eq _ _, rfl, doVolfxLen_mode p _⟩,
    fun p => ⟨_, exec_eq _ _, doVolfxMode_mode p _, ?_⟩, ⟨_, exec_eq _ _, doRst_mode _, rfl⟩, fun i t hexec hother => ?_⟩
  · rw [stateAfter_voice, voiceAfter, doRow_resetEnvelope_iff, doRow_mode]
    simp [or_comm]
  · rw [stateAfter_voice, voiceAfter, doVolfxMode_resetEnvelope, Bool.or_eq_true, modeRequestsReset_iff, or_comm]
  · obtain ⟨-, -, honly⟩ := modeStartsInLoopAndOnlyEffectsChangeIt
    obtain ⟨hlife, -, -⟩ := lifeOfAPendingReset i s t hexec
    have hmode := honly i s t hexec
    have hrequest := fun hnew hold => hlife (Bool.eq_false_of_not_eq_true hold) hnew
    cases i with
    | rst | volfxLen p | volfxMode p => exact hother.elim
    | row k n o fx =>
      obtain ⟨hk, hfx⟩ := hother
      obtain ⟨hcolumns, -⟩ := hmode
      refine ⟨hcolumns.trans (doColumns_mode_of_no_setter hfx s.voice), fun hnew => by_contra fun hold => ?_⟩
      rcases hrequest hnew hold with ⟨hpitched, -⟩ | ⟨c, hc, hset⟩
      · exact hk hpitched
      · exact Bool.false_ne_true ((hfx c hc).symm.trans hset)
    | _ => exact ⟨hmode, fun hnew => by_contra (hrequest hnew)⟩

end Sys2Proof.Machine
end

section
/-! PROOFS. Where a command and the machine stop, and what an effect or an `INST` that fails leaves behind: every command
completes, a run over issued commands is the fold of their meanings, the machine is refused only where its port begins with no
command, and two voices do not disturb each other (60_exceptions.md). -/

namespace Sys2Proof.Machine

/-! ## The step by what stands on the port (60_exceptions.md R205, R206, R194) -/

/-- Settles O5: the one equation of commands answers a next state. -/
theorem everyCommandCompletesInEveryState : Obligations.EveryCommandCompletesInEveryState :=
  fun i s => ⟨stateAfter i s, exec_eq i s⟩

theorem step_of_port_nil {s : State} (h : s.port = []) : step s = .next s := by
  rcases step_cases s with ⟨-, e⟩ | ⟨i, rest, hd, -⟩ | ⟨r, hne, -, -⟩
  · exact e
  · rw [h] at hd
    cases hd
  · exact absurd h hne

theorem step_of_spells_none {s : State} {r : DecodeError} (hne : s.port ≠ [])
    (hd : decode s.params.selectors s.port = .error r) : step s = .refused (.spellsNoCommand r) := by
  obtain ⟨params, voice, port, trace, results⟩ := s
  cases port with
  | nil => exact absurd rfl hne
  | cons w ws => exact step_of_decode_error (s := ⟨params, voice, w :: ws, trace, results⟩) hd

/-- Settles O1: the port is empty, spells a command, or spells none. -/
theorem stepRunsTheDecodedCommand : Obligations.StepRunsTheDecodedCommand :=
  fun s => ⟨step_of_port_nil, fun i rest hd => (step_of_decode hd).trans (exec_eq i (s.setPort rest)).symm,
    fun _ => step_of_spells_none⟩

/-- A port that begins with the words of a well-formed command spells that command, since decoding undoes encoding. -/
theorem step_of_encode {s : State} {i : Instr} {ws : List Word} (hwf : i.wellFormed s.params.selectors = true)
    (hport : s.port = encode s.params.selectors i ++ ws) : step s = .next (stateAfter i (s.setPort ws)) := by
  apply step_of_decode
  rw [hport]
  exact decodeOfEncodeIsTheCommand s.params.selectors i ws hwf

/-! ## Runs over issued commands (60_exceptions.md R206) -/

theorem encodeAll_cons (sel : Selectors) (i : Instr) (is : List Instr) :
    encodeAll sel (i :: is) = encode sel i ++ encodeAll sel is := List.flatMap_cons

/-- A command neither reads nor changes the words still on the port. -/
theorem stateAfter_setPort (i : Instr) (s : State) (ws : List Word) :
    stateAfter i (s.setPort ws) = (stateAfter i s).setPort ws := rfl

/-- One step per command consumes the words of a list of commands and runs their meanings. -/
theorem run_encodeAll {is : List Instr} {s : State} (rest : List Word)
    (hwf : ∀ i ∈ is, i.wellFormed s.params.selectors = true) :
    Host.Core.run Sys2Proof.core is.length (s.setPort (encodeAll s.params.selectors is ++ rest)) =
      execAll is (s.setPort rest) := by
  induction is generalizing s with
  | nil => rfl
  | cons i is ih =>
    obtain ⟨hi, his⟩ := List.forall_mem_cons.mp hwf
    have hstep : step (s.setPort (encodeAll s.params.selectors (i :: is) ++ rest)) =
        .next ((stateAfter i s).setPort (encodeAll s.params.selectors is ++ rest)) := by
      rw [encodeAll_cons, List.append_assoc]
      exact step_of_encode (s := s.setPort (encode s.params.selectors i ++ _)) hi rfl
    rw [List.length_cons, run_succ _ hstep, execAll_cons, stateAfter_setPort]
    exact ih his

/-- Settles O3: command by command, each step consumes the words of the next command and gives its meaning. -/
theorem runOfIssuedCommandsIsTheFoldOfMeanings : Obligations.RunOfIssuedCommandsIsTheFoldOfMeanings :=
  fun _ rest _ => run_encodeAll rest

/-! ## Where the machine stops (60_exceptions.md R190, R194) -/

/-- Settles O4: an empty port idles; else the first command runs and the words of the others stay. -/
theorem portsOfWholeCommandsNeverStopTheMachine : Obligations.PortsOfWholeCommandsNeverStopTheMachine := by
  rintro s ⟨is, hwf, hport⟩
  cases is with
  | nil => exact ⟨s, step_of_port_nil hport, [], hwf, hport⟩
  | cons i is =>
    obtain ⟨hi, his⟩ := List.forall_mem_cons.mp hwf
    exact ⟨_, step_of_encode hi (hport.trans (encodeAll_cons _ i is)), is, his, rfl⟩

/-- The block has no fault to answer (60_exceptions.md R190, R197). -/
theorem step_ne_fault (s : State) (r : Fault) : step s ≠ .fault r := by
  cases r

/-- Settles O2: there is no fault to answer; a port that decodes begins with the words of the command decoded, and one that
begins with the words of a command steps. -/
theorem stepIsRefusedExactlyWhereNoCommandIsSpelled : Obligations.StepIsRefusedExactlyWhereNoCommandIsSpelled := by
  refine fun s => ⟨step_ne_fault s, ?_⟩
  rcases step_cases s with ⟨hport, e⟩ | ⟨i, rest, hd, e⟩ | ⟨r, hne, hd, e⟩
  · simp [e, hport]
  · have hspelled := decodedWordsAreTheWordsOfTheCommand _ _ _ _ hd
    constructor
    · rintro ⟨r, hr⟩
      cases e.symm.trans hr
    · rintro ⟨-, hnone⟩
      exact absurd ⟨i, rest, hspelled⟩ hnone
  · refine iff_of_true ⟨_, e⟩ ⟨hne, ?_⟩
    rintro ⟨i, rest, hwf, hport⟩
    cases e.symm.trans (step_of_encode hwf hport)

/-! ## Ignored effects (60_exceptions.md R192) -/

theorem doFx_of_ignored {sel : Selectors} {c : Fx} (h : columnIgnored sel c = true) (v : Voice) : doFx sel c v = v := by
  unfold doFx
  rcases Bool.or_eq_true_iff.mp h with hother | hvolume
  · obtain ⟨hv, hd⟩ := Bool.and_eq_true_iff.mp hother
    simp [bne_iff_ne.mp hv, bne_iff_ne.mp hd]
  · obtain ⟨he, hp⟩ := Bool.and_eq_true_iff.mp hvolume
    obtain ⟨hlen, hmode⟩ := (ignoredVolumeParam_iff c.p).mp hp
    rw [if_neg (fun ⟨_, hlt⟩ => hlen hlt), if_neg (fun ⟨_, hrange⟩ => hmode hrange), if_pos (beq_iff_eq.mp he)]

/-- The columns of a row have the effect they have without an ignored one. -/
theorem doColumns_skip_ignored {sel : Selectors} {c : Fx} (h : columnIgnored sel c = true) (before after : List Fx)
    (v : Voice) : doColumns sel (before ++ c :: after) v = doColumns sel (before ++ after) v := by
  rw [doColumns_append, doColumns_append, doColumns_cons, doFx_of_ignored h]

/-- Settles O25: as a command its effect is the identity, and a row is its columns, then the note and the hook. -/
theorem ignoredColumnsDoNotStopTheRow : Obligations.IgnoredColumnsDoNotStopTheRow := by
  refine fun c s h => ⟨?_, fun k n o before after => ?_⟩
  · rw [exec_decodeFx, doFx_of_ignored h]
    rfl
  · rw [exec_row, exec_row, doRow, doRow, doColumns_skip_ignored h]

/-! ## A failed `INST` (60_exceptions.md R191) -/

/-- Settles O27: after a failed `INST` only the results differ, and no run depends on the results already there. -/
theorem failedInstLeavesNothingBehind : Obligations.FailedInstLeavesNothingBehind := by
  intro t s ht
  have hfail := exec_inst_of_unsupported (supportedType_eq_none.mpr ht)
  refine ⟨hfail, fun is u hrun => ?_⟩
  obtain ⟨b, rs, htrace, hresults, hrun'⟩ :=
    runsDoNotDependOnWhatTheSinkReceived is s u s.trace (s.results ++ [.ok false]) hrun
  have hskip : execAll (.inst t :: is) s = execAll is { s with results := s.results ++ [.ok false] } := by
    rw [execAll_cons, eq_of_exec hfail]
  exact ⟨_, rs, hskip.trans hrun', rfl, htrace.symm, hresults, List.append_assoc ..⟩

/-! ## Two voices over one sink (60_exceptions.md R204) -/

/-- Settles O58: the turn, said once, and what its step appends. -/
theorem oneVoiceLeavesTheOtherAlone : Obligations.OneVoiceLeavesTheOtherAlone := by
  intro c d p q hturn hd
  obtain ⟨hstep, hother, hsink⟩ := turn_spec hturn
  obtain ⟨-, htrace⟩ := step_appends hstep
  exact ⟨hother d hd, hstep, _, hsink, htrace⟩

end Sys2Proof.Machine
end

section
/-! PROOFS. The hazards of a program: what a note takes from the duty effects before it, and what `CLR` leaves in the sink while
the diffing is as it was (70_reset_and_hazards.md). -/

namespace Sys2Proof.Machine

/-! ## A note restores the default duty (70_reset_and_hazards.md R234) -/

/-- The duty before a pitched row is lost: the note passes the columns and overwrites it (40_note_commands.md R95). -/
theorem doRow_pitched_of_dutyPeriod (sel : Selectors) (n : BitVec 4) (o : BitVec 3) (fx : List Fx) (v : Voice) (d : Byte) :
    doRow sel .pitched n o fx { v with dutyPeriod := d } = doRow sel .pitched n o fx v := by
  rw [doRow, doRow, dispatchNote_doColumns, dispatchNote_doColumns]
  rfl

/-- A pitched row takes its duty from the default its columns leave. -/
theorem doRow_pitched_dutyPeriod (sel : Selectors) (n : BitVec 4) (o : BitVec 3) (fx : List Fx) (v : Voice) :
    (doRow sel .pitched n o fx v).dutyPeriod = (doColumns sel fx v).dutyDefault := by
  simp [doRow]

/-- A run that begins with a `SEQDUTY` goes on from the machine with the converted duty (92_eei_decisions.md D15). -/
theorem execAll_seqduty_cons (d : Byte) (is : List Instr) (s : State) :
    execAll (.seqduty d :: is) s =
      execAll is (s.setVoice { s.voice with dutyPeriod := convertDuty s.voice.instType d }) := by
  rw [execAll, exec_eq_setVoice rfl rfl]
  rfl

/-- Settles O19: a note overwrites the duty with the default, which only a duty effect changes. -/
theorem noteRestoresTheDefaultDuty : Obligations.NoteRestoresTheDefaultDuty := by
  refine ⟨fun d n o s => ?_, fun d n o fx s => ?_, fun p n o s => ⟨_, rfl, rfl⟩, fun p n o fx s hfx => ⟨_, rfl, ?_⟩⟩
  · rw [execAll_seqduty_cons]
    rfl
  · rw [execAll_seqduty_cons]
    exact congrArg (fun v => Host.Outcome.next (s.setVoice v)) (doRow_pitched_of_dutyPeriod _ n o fx s.voice _)
  · refine (doRow_pitched_dutyPeriod _ n o fx _).trans ?_
    exact (doColumns_dutyDefault _ fx _).resolve_right fun ⟨c, hc, he⟩ => hfx c hc he

/-! ## `PERLO` after `CLR` (70_reset_and_hazards.md R227) -/

/-- An address a command writes last reads as the byte written. -/
theorem sinkByte_of_last_write {i : Instr} {s : State} {before : List SinkWrite} {a : Addr} {b : Byte}
    (h : writesOf i s.params s.voice = before ++ [(a, b)]) : (stateAfter i s).sinkByte a = some b := by
  rw [sinkByte_eq, stateAfter_trace, h, ← List.append_assoc]
  exact imageOf_append_read_same _ a b

theorem sinkByte_perlo_clr (s : State) : (stateAfter .clr s).sinkByte (addrPerlo s.params) = some 0x00 :=
  sinkByte_of_last_write (before := [(addrCtrl s.params, 0x00), (addrPerhi s.params, 0x00)]) rfl

theorem isFullTick_tick_iff (P : BitVec 11) (V : BitVec 4) (s : State) :
    isFullTick (.tick P V) s = true ↔ s.voice.gate = true ∧ s.voice.perloDue s.params.periodSplit P = true :=
  Bool.and_eq_true_iff

/-- A full tick writes `PERLO` last. -/
theorem sinkByte_perlo_of_fullTick {P : BitVec 11} {V : BitVec 4} {s : State} (h : isFullTick (.tick P V) s = true) :
    (stateAfter (.tick P V) s).sinkByte (addrPerlo s.params) =
      some (perloByte s.params.periodSplit P s.voice.lengthCounter) := by
  obtain ⟨hg, hdue⟩ := (isFullTick_tick_iff P V s).mp h
  exact sinkByte_of_last_write (before := [_, _, _]) (tickBurst_full hg hdue)

/-- No command but a full tick brings a `PERLO` of 0x00 to another value: `CLR` writes 0x00 again, the others do not write
there. -/
theorem perlo_zero_stateAfter {i : Instr} {s : State} (hd : distinctAddrs s.params) (hfull : isFullTick i s = false)
    (hzero : s.sinkByte (addrPerlo s.params) = some 0x00) :
    (stateAfter i s).sinkByte (addrPerlo s.params) = some 0x00 := by
  cases i with
  | clr => exact sinkByte_perlo_clr s
  | tick P V =>
    obtain ⟨-, -, hel, -, hcl, hhl⟩ := (distinctAddrs_iff _).mp hd
    refine (sinkByte_tick hel.symm hcl.symm (fun ⟨_, h⟩ => hhl h.symm) fun ⟨hg, hdue, _⟩ => ?_).trans hzero
    exact Bool.false_ne_true (hfull.symm.trans ((isFullTick_tick_iff P V s).mpr ⟨hg, hdue⟩))
  | _ => exact (sinkByte_stateAfter fun _ hw => absurd hw List.not_mem_nil).trans hzero

theorem perlo_zero_of_noFullTick {is : List Instr} {s u : State} (hd : distinctAddrs s.params)
    (hnone : noFullTick is s = true) (hrun : execAll is s = .next u)
    (hzero : s.sinkByte (addrPerlo s.params) = some 0x00) : u.sinkByte (addrPerlo s.params) = some 0x00 := by
  induction is generalizing s with
  | nil =>
    cases hrun
    exact hzero
  | cons i is ih =>
    rw [noFullTick_cons, Bool.and_eq_true_iff, Bool.not_eq_true'] at hnone
    obtain ⟨hi, his⟩ := hnone
    rw [execAll_cons] at hrun
    exact ih (s := stateAfter i s) hd his hrun (perlo_zero_stateAfter hd hi hzero)

theorem params_of_execAll {is : List Instr} {s u : State} (hrun : execAll is s = .next u) : u.params = s.params :=
  execAll_keeps (p := fun t => t.params = s.params) hrun (fun _ _ _ h => h) rfl

/-- Settles O40: `CLR` writes `PERLO` last and keeps the voice, every command but a full tick keeps the 0x00, and a full tick
writes `PERLO` last. -/
theorem clrLeavesPerloZeroUntilAFullTick : Obligations.ClrLeavesPerloZeroUntilAFullTick := by
  refine fun s hd => ⟨_, exec_eq .clr s, sinkByte_perlo_clr s,
    fun is u hnone hrun => perlo_zero_of_noFullTick (s := stateAfter .clr s) hd hnone hrun (sinkByte_perlo_clr s),
    fun P V hg hr hbyte => ?_, fun is P V u hrun hfull => ⟨_, exec_eq _ _, ?_⟩⟩
  · have hdue : s.voice.perloDue s.params.periodSplit P = false := by simp [Voice.perloDue, hr, hbyte]
    have hshort : isFullTick (.tick P V) (stateAfter .clr s) = false := by
      rw [isFullTick, stateAfter_params, stateAfter_voice, voiceAfter, hdue, Bool.and_false]
    refine ⟨by rw [noFullTick_cons, hshort, noFullTick_nil]; rfl, _, exec_eq _ _, ?_⟩
    rw [stateAfter_trace, List.length_append]
    exact congrArg (_ + List.length ·) (tickBurst_short hg hdue)
  · have hparams : u.params = s.params := params_of_execAll (s := stateAfter .clr s) hrun
    rw [← hparams]
    exact sinkByte_perlo_of_fullTick hfull

end Sys2Proof.Machine
end

section
/-! PROOFS. The words the spec writes out, decoded (95_test_vectors.md section 2.1). -/

namespace Sys2Proof.Machine

/-- A stream that is exactly the words of a well-formed command decodes to it, with nothing left. -/
theorem decode_of_encode_eq {sel : Selectors} {i : Instr} {ws : List Word} (hwf : i.wellFormed sel = true)
    (hws : encode sel i = ws) : decode sel ws = .ok (i, []) := by
  rw [← hws, ← List.append_nil (encode sel i)]
  exact decodeOfEncodeIsTheCommand sel i [] hwf

/-- Settles O10: each list of words is the encoding of the well-formed command named, so it decodes back to it (O6). -/
theorem specWordsDecodeAsWritten : Obligations.SpecWordsDecodeAsWritten := by
  unfold Obligations.SpecWordsDecodeAsWritten
  and_intros <;> exact decode_of_encode_eq (by decide) (by decide)

end Sys2Proof.Machine
end
